-- ==== Sys2Proof/Word.lean ====
section
/-!
DEFINITION. The byte (R6: a sample, an output byte and the accumulator are 8 bits each).
-/
namespace Sys2Proof

/-- A sample, an output byte or the accumulator: 8 bits, bit 0 the least significant (R6, R92). -/
abbrev Byte := BitVec 8

end Sys2Proof
end

