-- ==== Sys2Proof/Config.lean ====
section
/-!
DEFINITION. The two parameters the spec leaves open (R7, R8) and the width derived from them (R9).
The spec names no undefined result value, so there is no free value here.
-/
namespace Sys2Proof

/-- The open parameters: `dimW` is DIM_W (R7) and `thrW` is THR_W (R8). R7 has the model take them as arguments;
they stand in `State`, where no step writes them (notes/assumptions/1.md, DESIGN CHOICE). -/
structure Params where
  dimW : Nat
  thrW : Nat
deriving DecidableEq, Repr

/-- CNT_W, the width of BYTECOUNT, OUTCOUNT and K (R9). -/
def Params.cntW (p : Params) : Nat := 2 * p.dimW

/-- The bounds the spec puts on the parameters: DIM_W at least 3 (R7), THR_W at least 10 (R8). -/
def Params.legal (p : Params) : Bool := decide (3 ≤ p.dimW) && decide (10 ≤ p.thrW)

/-- The values the spec uses in its examples (R7, R8): 16 and 16. -/
def Params.example16 : Params := { dimW := 16, thrW := 16 }

end Sys2Proof
end

