-- ==== Sys2Proof/Syntax.lean ====
section
/-!
DEFINITION. The instructions: one constructor per row of spec/opcode_table.json, the eight registers, and the words of
the three formats the table uses (U, H and C).
-/
namespace Sys2Proof

/-- The eight host-visible registers, numbers 0 to 7 (R40). -/
inductive Reg where
  | ctrl | status | width | height | threshold | bytecount | outcount | uop
deriving DecidableEq, Repr

/-- One instruction of the table. The first six are the sequencer's micro-operations (R140 to R147), the next four the
host's operations (R180 to R185). -/
inductive Instr where
  /-- CHK: validate THRESHOLD (R141). -/
  | chk
  /-- CLR: clear the accumulator (R142). -/
  | clr
  /-- TST b: threshold the sample of bit position `b` into the accumulator (R143, R147). -/
  | tst (b : Fin 8)
  /-- PAD b: a padding position (R144). -/
  | pad (b : Fin 8)
  /-- EMIT: append the accumulator to OUT (R145). -/
  | emit
  /-- FIN: finish (R146). -/
  | fin
  /-- RD n: read a register (R180). -/
  | rd (r : Reg)
  /-- WR n, v: write a register; `v` is the data phase as an unsigned number (R181, R75). -/
  | wr (r : Reg) (v : Nat)
  /-- START, a command word with bit 0 = 1; `rsv` holds its ignored bits 7:1 (R94, R184). -/
  | start (rsv : BitVec 7)
  /-- NOPC, a command word with bit 0 = 0; `rsv` holds its ignored bits 7:1 (R94, R185). -/
  | nopc (rsv : BitVec 7)
deriving DecidableEq, Repr

/-- A word under its format (R90): the formats meet the engine on different wires, so a word is read only together
with its format. -/
inductive Code where
  /-- Format U: a micro-operation word (R100), produced by the sequencer. -/
  | u (word : BitVec 8)
  /-- Format H: the address phase `we, n[2:0]` of a host transfer (R102) with its data phase as an unsigned number
  (R75; a read's data phase comes from the engine, so the host's part is 0). -/
  | h (addr : BitVec 4) (data : Nat)
  /-- Format C: a command word, the data phase of a write to CTRL (R94). -/
  | c (word : BitVec 8)
deriving DecidableEq, Repr

end Sys2Proof
end

