-- ==== Sys2Proof/WellFormed.lean ====
section
/-!
DEFINITION. Well-formed instructions: a write carries a value of its register's own width (R75, R181); every other
operand is bounded by its type.
-/
namespace Sys2Proof

/-- The width in bits of a register, and so of the data phase of its transfers (R40, R75). -/
def Reg.dataWidth (p : Params) : Reg → Nat
  | .ctrl => 8
  | .status => 8
  | .width => p.dimW
  | .height => p.dimW
  | .threshold => p.thrW
  | .bytecount => p.cntW
  | .outcount => p.cntW
  | .uop => 8

/-- An instruction is well-formed when the value of a write fits the width of the register it names (R181: "a value
`v` of the width of register `n`"). -/
def Instr.wellFormed (p : Params) : Instr → Bool
  | .wr r v => decide (v < 2 ^ r.dataWidth p)
  | .chk => true
  | .clr => true
  | .tst _ => true
  | .pad _ => true
  | .emit => true
  | .fin => true
  | .rd _ => true
  | .start _ => true
  | .nopc _ => true

end Sys2Proof
end

