-- ==== Sys2Proof/Decode.lean ====
section
/-!
DEFINITION. Decoding and encoding of the three formats: U (R100, R101, R106), H (R102) and C (R94). Total; a word that
names no instruction is rejected by name.
-/
namespace Sys2Proof

/-- Why a format U word names no micro-operation (R106). -/
inductive DecodeError where
  /-- `op` is 0x0 or 0x7 to 0xF. -/
  | reservedOp
  /-- Bit 3 is set. -/
  | bit3Set
  /-- `b` is not 0 and `op` takes no `b`. -/
  | operandNotZero
deriving DecidableEq, Repr

/-- The `op` field of a format U word, bits 7:4 (R100). -/
def uOp (w : BitVec 8) : Nat := w.toNat / 16

/-- The `b` field of a format U word, bits 2:0 (R100). -/
def uB (w : BitVec 8) : Fin 8 := ⟨w.toNat % 8, Nat.mod_lt _ (by decide)⟩

/-- Bit 3 of a format U word, zero in every valid word (R100). -/
def uBit3 (w : BitVec 8) : Bool := w.getLsbD 3

/-- The micro-operation of an `op` that takes no `b`: any other `b` than 0 is rejected (R106). -/
def uPlain (b : Fin 8) (i : Instr) : Except DecodeError Instr :=
  if b = 0 then .ok i else .error .operandNotZero

/-- The decoder of format U: the 20 valid words of R106, every other word rejected. -/
def decodeU (w : BitVec 8) : Except DecodeError Instr :=
  if uOp w = 0 ∨ 7 ≤ uOp w then .error .reservedOp
  else if uBit3 w then .error .bit3Set
  else match uOp w with
    | 1 => uPlain (uB w) .chk
    | 2 => uPlain (uB w) .clr
    | 3 => .ok (.tst (uB w))
    | 4 => .ok (.pad (uB w))
    | 5 => uPlain (uB w) .emit
    | _ => uPlain (uB w) .fin

/-- The register of a number 0 to 7; all eight are assigned (R40, R107). -/
def regOfNum (n : Fin 8) : Reg :=
  match n with
  | 0 => .ctrl
  | 1 => .status
  | 2 => .width
  | 3 => .height
  | 4 => .threshold
  | 5 => .bytecount
  | 6 => .outcount
  | 7 => .uop

/-- The number of a register (R40). -/
def regNum : Reg → Fin 8
  | .ctrl => 0
  | .status => 1
  | .width => 2
  | .height => 3
  | .threshold => 4
  | .bytecount => 5
  | .outcount => 6
  | .uop => 7

/-- The register number `n[2:0]` of an address phase (R102). -/
def hNum (addr : BitVec 4) : Fin 8 := ⟨addr.toNat % 8, Nat.mod_lt _ (by decide)⟩

/-- The decoder of format H: bit 3 is `we`, 0 a read and 1 a write (R102). -/
def decodeH (addr : BitVec 4) (data : Nat) : Instr :=
  if addr.getLsbD 3 then .wr (regOfNum (hNum addr)) data else .rd (regOfNum (hNum addr))

/-- The decoder of format C: bit 0 selects START or NOPC, bits 7:1 are kept as they come and mean nothing (R94). -/
def decodeC (w : BitVec 8) : Instr :=
  if w.getLsbD 0 then .start (w.extractLsb' 1 7) else .nopc (w.extractLsb' 1 7)

/-- The decoder: total, a format U word outside the 20 valid ones rejected by name (R106). -/
def decode : Code → Except DecodeError Instr
  | .u w => decodeU w
  | .h addr data => .ok (decodeH addr data)
  | .c w => .ok (decodeC w)

/-- A format U word from its `op` and `b` fields, bit 3 zero (R100). -/
def uWord (op : Nat) (b : Fin 8) : BitVec 8 := BitVec.ofNat 8 (16 * op + b.val)

/-- A format H address phase from `we` and the register (R102). -/
def hAddr (we : Bool) (r : Reg) : BitVec 4 := BitVec.ofNat 4 ((if we then 8 else 0) + (regNum r).val)

/-- The encoder, written from R101 (format U), R102 (format H) and R94 (format C). -/
def encode : Instr → Code
  | .chk => .u (uWord 1 0)
  | .clr => .u (uWord 2 0)
  | .tst b => .u (uWord 3 b)
  | .pad b => .u (uWord 4 b)
  | .emit => .u (uWord 5 0)
  | .fin => .u (uWord 6 0)
  | .rd r => .h (hAddr false r) 0
  | .wr r v => .h (hAddr true r) v
  | .start rsv => .c (rsv ++ 1#1)
  | .nopc rsv => .c (rsv ++ 0#1)

/-- One row of spec/opcode_table.json: a word belongs to the row when `word &&& mask = pattern`. -/
structure Row where
  mnemonic : String
  mask : Nat
  pattern : Nat
deriving DecidableEq, Repr

/-- The rows of format U (R101). -/
def rowsU : List Row :=
  [⟨"CHK", 0xFF, 0x10⟩, ⟨"CLR", 0xFF, 0x20⟩, ⟨"TST", 0xF8, 0x30⟩, ⟨"PAD", 0xF8, 0x40⟩, ⟨"EMIT", 0xFF, 0x50⟩,
   ⟨"FIN", 0xFF, 0x60⟩]

/-- The rows of format H (R102). -/
def rowsH : List Row := [⟨"RD", 0x8, 0x0⟩, ⟨"WR", 0x8, 0x8⟩]

/-- The rows of format C (R94). -/
def rowsC : List Row := [⟨"START", 0x01, 0x01⟩, ⟨"NOPC", 0x01, 0x00⟩]

/-- The row a word of a format belongs to, if any. -/
def rowOf (rows : List Row) (w : Nat) : Option Row := rows.find? (fun r => w &&& r.mask = r.pattern)

/-- The mnemonic of an instruction, as the table spells it. -/
def mnemonic : Instr → String
  | .chk => "CHK"
  | .clr => "CLR"
  | .tst _ => "TST"
  | .pad _ => "PAD"
  | .emit => "EMIT"
  | .fin => "FIN"
  | .rd _ => "RD"
  | .wr _ _ => "WR"
  | .start _ => "START"
  | .nopc _ => "NOPC"

/-- The table's row for a word under its format. -/
def rowOfCode : Code → Option Row
  | .u w => rowOf rowsU w.toNat
  | .h addr _ => rowOf rowsH addr.toNat
  | .c w => rowOf rowsC w.toNat

/-- The format of a word that comes without one. The table's words carry no format, and the spec's formats overlap:
a 4-bit row is format H; an 8-bit word is format U if it is one of the 20 valid words, format C if it is 0x00, 0x01
(the words R110 writes for NOPC and START) or 0x10 and above, and otherwise, 0x02 to 0x0F, a format H address phase
written in a whole byte. DESIGN CHOICE, notes/assumptions/10.md; `step` never uses this function. -/
def codeOfTableWord (nbits w : Nat) : Option Code :=
  if nbits = 4 then (if w < 16 then some (.h (BitVec.ofNat 4 w) 0) else none)
  else if nbits = 8 ∧ w < 256 then
    match decodeU (BitVec.ofNat 8 w) with
    | .ok _ => some (.u (BitVec.ofNat 8 w))
    | .error _ =>
      if w ≤ 1 ∨ 16 ≤ w then some (.c (BitVec.ofNat 8 w)) else some (.h (BitVec.ofNat 4 w) 0)
  else none

/-- The instruction the decoder reads from a word of spec/opcode_table.json; the data phase of a write, which the
table gives no bits, is 0. -/
def decodeTableWord (nbits w : Nat) : Option Instr :=
  match codeOfTableWord nbits w with
  | some c =>
    match decode c with
    | .ok i => some i
    | .error _ => none
  | none => none

end Sys2Proof
end

