-- ==== Sys2Proof/Machine/State.lean ====
section
/-!
DEFINITION. The state: the engine's twelve elements (R20), the parameters the spec has the model take as arguments
(DIM_W, THR_W, the grid), the neighbours' side of the ports, and what the outside world does next. All of it plain
data. The reset state (R50, R230).
-/
namespace Sys2Proof.Machine

/-- STATE, the operating state (R25). -/
inductive OpState where
  | idle | busy | done | error
deriving DecidableEq, Repr

/-- ERR, the error cause (R32); code 3 is never produced, so there are three values (spec/93 U7). -/
inductive Err where
  | none | param | grid
deriving DecidableEq, Repr

/-- S, the slot: twelve values, BIT0 to BIT7 written `bit b` (R29). -/
inductive Slot where
  | chk | clr | bit (b : Fin 8) | emit | fin
deriving DecidableEq, Repr

/-- A signal to the byte consumer (R67). -/
inductive OutEvent where
  | begin | byte (v : Byte) | commit | abort
deriving DecidableEq, Repr

/-- The artifact: width, height, byte count, bytes (R111, R212). -/
structure Artifact where
  width : Nat
  height : Nat
  byteCount : Nat
  bytes : List Byte
deriving DecidableEq, Repr

/-- Memory: a list of (address, byte) cells in one canonical form, see `Memory.wf` in Machine/Ops.lean. -/
abbrev Memory := List Host.Cell

/-- The grid the provider holds: its true dimensions and its samples in a linear row-major store (R61, R63). -/
structure Grid where
  w : Nat
  h : Nat
  cells : Memory
deriving DecidableEq, Repr

/-- What RD returned to the host (R180): the register and the data phase as an unsigned number of its width. -/
structure ReadRecord where
  reg : Reg
  value : Nat
deriving DecidableEq, Repr

/-- One line of a host script (R109, R110). START and NOPC are `command` lines: the word written to CTRL. -/
inductive HostItem where
  /-- A transfer on the register port: address phase and data phase (R102). -/
  | transfer (addr : BitVec 4) (data : Nat)
  /-- A command word written to CTRL (R94). -/
  | command (word : BitVec 8)
  /-- RESET applied by the host (R190). -/
  | reset
  /-- WAIT: read STATUS until it is not BUSY (R187). -/
  | wait
deriving DecidableEq, Repr

/-- The input levels at a step boundary. -/
structure Pins where
  /-- The reset input (R190, R206). -/
  reset : Bool
  /-- While BUSY: the host takes this boundary for its next script line, and the engine does not step (R85). -/
  hostFirst : Bool
  /-- The grid provider answers a sample read made now (R72, R243). -/
  sampleReady : Bool
  /-- The byte consumer accepts a byte sent now (R72, R243). -/
  byteReady : Bool
deriving DecidableEq, Repr

/-- No reset, the host waiting its turn, both ports ready. -/
def Pins.quiet : Pins := { reset := false, hostFirst := false, sampleReady := true, byteReady := true }

/-- The state. INVENTORY.md lists every field with the rule that names it. -/
structure State where
  /-- DIM_W and THR_W (R7, R8); no step writes them. -/
  params : Params
  /-- The Intensity Grid, a parameter of the step relation (R35); no step writes it. -/
  grid : Grid
  /-- WIDTH (R22), below `2 ^ dimW`. -/
  width : Nat
  /-- HEIGHT (R23), below `2 ^ dimW`. -/
  height : Nat
  /-- THRESHOLD as the signed number it holds (R24). -/
  threshold : Int
  /-- STATE (R25). -/
  opState : OpState
  /-- ERR (R32). -/
  err : Err
  /-- ACC (R21). -/
  acc : Byte
  /-- Y, the row counter (R27). -/
  y : Nat
  /-- G, the group counter (R28). -/
  g : Nat
  /-- S, the slot (R29). -/
  slot : Slot
  /-- K, the count of bytes appended (R30). -/
  k : Nat
  /-- OUT, the packed byte sequence: element `k` is at position `k` of the list (R31, R65). -/
  out : List Byte
  /-- The artifact as the consumer took it at OutCommit (R67, R212). -/
  artifact : Option Artifact
  /-- The byte-port events sent so far, oldest first (R67). -/
  events : List OutEvent
  /-- The sample reads answered so far, as (x, y), oldest first (R68). -/
  sampleReads : List (Nat × Nat)
  /-- What RD returned so far, oldest first (R180). -/
  reads : List ReadRecord
  /-- The host's remaining script, next line first (R109). -/
  script : List HostItem
  /-- The input levels at the next step boundary. -/
  pins : Pins
  /-- The input levels at the boundaries after it; when empty the levels hold. -/
  pinsLater : List Pins
deriving DecidableEq, Repr

/-- The faults that stop the machine: none. The spec's two errors are next states (R204), and a port that never
answers leaves the engine where it is (R243). The type has no constructor, so no step can answer a fault. -/
inductive Fault
deriving DecidableEq, Repr

/-- The refusals. -/
inductive Refusal where
  /-- Raised by an arm of `exec` whose instruction has no meaning yet; no arm does so now. Safe: the machine stops. -/
  | notModelled (mnemonic : String)
  /-- Raised by `step` for a fetched format U word that names no micro-operation (R106). The sequencer never produces
  one, so no step reaches it. Safe: the machine stops. -/
  | invalidWord (word : BitVec 8)
deriving DecidableEq, Repr

/-- What happens at a step boundary: the reset input, nothing at all, or one word to decode and execute, with the
state it is executed in. -/
inductive Move where
  | reset (s : State)
  | quiet
  | run (c : Code) (s : State)
deriving DecidableEq, Repr

/-- The machine right after reset: every element of R50 at its value. The parameters, the provider's grid and the
neighbours' records are the model's (notes/assumptions/1.md, 3.md, 5.md, 7.md, DESIGN CHOICE): DIM_W and THR_W 16, the
0 by 0 grid, nothing recorded, an empty script, quiet pins. -/
def State.reset : State where
  params := Params.example16
  grid := { w := 0, h := 0, cells := [] }
  width := 0
  height := 0
  threshold := 128
  opState := .idle
  err := .none
  acc := 0
  y := 0
  g := 0
  slot := .chk
  k := 0
  out := []
  artifact := none
  events := []
  sampleReads := []
  reads := []
  script := []
  pins := Pins.quiet
  pinsLater := []

end Sys2Proof.Machine
end

