-- ==== Sys2Proof/Machine/Operands.lean ====
section
/-!
DEFINITION. The operand forms: the column, the accumulator bit, the groups per row, the threshold operand, the byte
count (R103 to R105, R124, R125), and the two's-complement form of THRESHOLD on the register port (R93).
-/
namespace Sys2Proof.Machine

/-- GPR as R124 gives it: `ceil(WIDTH / 8) = (WIDTH + 7) div 8` in the natural numbers. -/
def gpr (width : Nat) : Nat := (width + 7) / 8

/-- GPR as R104 assembles it, with no carry out of DIM_W bits: `WIDTH[DIM_W-1:3] + [WIDTH[2:0] != 0]`. -/
def gprAssembled (width : Nat) : Nat := width / 8 + (if width % 8 = 0 then 0 else 1)

/-- BYTECOUNT: `HEIGHT * GPR`, exact (R125). -/
def byteCount (width height : Nat) : Nat := height * gpr width

/-- The column of bit position `b` in group `g`: `x = 8*G + b` (R103). -/
def column (g : Nat) (b : Fin 8) : Nat := 8 * g + b.val

/-- The mask of the accumulator bit of bit position `b`: `0x80 >> b`, bit `7 - b` (R103). -/
def accMask (b : Fin 8) : Byte := 0x80#8 >>> b.val

/-- The threshold operand of TST: `THRESHOLD[7:0]` taken as an unsigned number (R105). -/
def thresholdOperand (threshold : Int) : Byte := BitVec.ofInt 8 threshold

/-- THRESHOLD as the register port carries it: `THR_W` bits, two's complement, as an unsigned number (R93). -/
def thresholdToBits (p : Params) (threshold : Int) : Nat := (BitVec.ofInt p.thrW threshold).toNat

/-- The signed value of a `THR_W`-bit word on the register port (R93). -/
def thresholdOfBits (p : Params) (v : Nat) : Int := (BitVec.ofNat p.thrW v).toInt

/-- A data phase carries no more bits than its register has (R75): what is left of a number that does not fit. -/
def dataPhase (p : Params) (r : Reg) (v : Nat) : Nat := v % 2 ^ r.dataWidth p

end Sys2Proof.Machine
end

