-- ==== Sys2Proof/Machine/Flags.lean ====
section
/-!
DEFINITION. The engine has no flags (R34). Here stand what takes their place: the STATUS word (R42), the `irq` level
(R208), and the two comparisons the engine makes, the range check of CHK (R141) and the threshold test of TST (R143).
-/
namespace Sys2Proof.Machine

/-- The two-bit code of STATE (R25). -/
def opStateCode : OpState → BitVec 2
  | .idle => 0
  | .busy => 1
  | .done => 2
  | .error => 3

/-- The two-bit code of ERR (R32). -/
def errCode : Err → BitVec 2
  | .none => 0
  | .param => 1
  | .grid => 2

/-- `STATUS = {0b0000, ERR[1:0], STATE[1:0]}` (R42). -/
def statusWord (s : State) : BitVec 8 := 0#4 ++ errCode s.err ++ opStateCode s.opState

/-- The completion output: `irq = [STATE = DONE or STATE = ERROR]` (R208). -/
def irq (s : State) : Bool := decide (s.opState = .done) || decide (s.opState = .error)

/-- The range check of CHK, a signed comparison (R141, R132 (b)). -/
def thresholdLegal (threshold : Int) : Bool := decide (0 ≤ threshold) && decide (threshold ≤ 255)

/-- The test of TST: `sample >= THRESHOLD[7:0]`, unsigned, inclusive (R143, R121). -/
def sampleSet (threshold : Int) (sample : Byte) : Bool := decide (thresholdOperand threshold ≤ sample)

end Sys2Proof.Machine
end

