-- ==== Sys2Proof/Machine/Sequencer.lean ====
section
/-!
DEFINITION. The sequencer: the hardwired fetch (R160) and the successor of every slot (R161 to R165).
-/
namespace Sys2Proof.Machine

/-- Fetch, `fetch(WIDTH, (Y, G, S))`: the word of the micro-operation at a position, a function of WIDTH, G and S alone
(R160). -/
def fetch (width g : Nat) : Slot → BitVec 8
  | .chk => 0x10#8
  | .clr => 0x20#8
  | .bit b => if column g b < width then 0x30#8 + BitVec.ofNat 8 b.val else 0x40#8 + BitVec.ofNat 8 b.val
  | .emit => 0x50#8
  | .fin => 0x60#8

/-- The word the engine would fetch now. -/
def fetchWord (s : State) : BitVec 8 := fetch s.width s.g s.slot

/-- The slot `first_pc(WIDTH, HEIGHT)` gives: FIN for a grid with a zero side, else CLR (R162). -/
def firstSlot (width height : Nat) : Slot := if height = 0 ∨ gpr width = 0 then .fin else .clr

/-- The slot after TST b or PAD b: BIT(b+1), and EMIT after `b = 7` (R164). -/
def nextSlot (b : Fin 8) : Slot := if h : b.val + 1 < 8 then .bit ⟨b.val + 1, h⟩ else .emit

/-- `pc <- (y, g, s)`. -/
def setPc (s : State) (y g : Nat) (slot : Slot) : State := { s with y := y, g := g, slot := slot }

/-- `next_group(Y, G)` after EMIT: the next group of the row, else the first group of the next row, else FIN (R165).
At the last EMIT of the last row G keeps its value, as R165 has it: R26 and R145 give the advance of pc to R165, although
R28's words set G to 0 there. DEDUCED, notes/assumptions/16.md. -/
def nextGroup (s : State) : State :=
  if s.g + 1 < gpr s.width then setPc s s.y (s.g + 1) .clr
  else if s.y + 1 < s.height then setPc s (s.y + 1) 0 .clr
  else setPc s s.y s.g .fin

end Sys2Proof.Machine
end

