-- ==== Sys2Proof/Machine/Ops.lean ====
section
/-!
DEFINITION. The named operations: memory and the grid (R61 to R63), the sample port and the byte port (R62, R65, R67,
R72), registers (R40 to R48), error entry (R204), START (R184), RESET (R190), and what happens at a step boundary.
-/
namespace Sys2Proof.Machine

/-! ### Memory in its canonical form -/

/-- What an unlisted cell reads as. DESIGN CHOICE, notes/assumptions/4.md. -/
def Memory.unlisted : Byte := 0

/-- Read one byte. -/
def Memory.read : Memory → Nat → Byte
  | [], _ => Memory.unlisted
  | c :: m, a => if c.1 = a then c.2 else Memory.read m a

/-- Write one byte, keeping the canonical form: writing the unlisted value removes the entry. -/
def Memory.write : Memory → Nat → Byte → Memory
  | [], a, v => if v = Memory.unlisted then [] else [(a, v)]
  | c :: m, a, v =>
    if a < c.1 then (if v = Memory.unlisted then c :: m else (a, v) :: c :: m)
    else if a = c.1 then (if v = Memory.unlisted then m else (a, v) :: m)
    else c :: Memory.write m a v

/-- The canonical form: addresses strictly rising, no entry equal to the unlisted value. -/
def Memory.wf : Memory → Bool
  | [] => true
  | c :: m => decide (c.2 ≠ Memory.unlisted) && m.all (fun d => decide (c.1 < d.1)) && Memory.wf m

/-- Write a run of bytes from an address on. -/
def Memory.writeList : Memory → Nat → List Byte → Memory
  | m, _, [] => m
  | m, a, v :: vs => Memory.writeList (Memory.write m a v) (a + 1) vs

/-! ### The grid provider -/

/-- The address of a sample in the provider's linear row-major store: `y * w + x`, `w` its own row length (R63). -/
def Grid.addr (g : Grid) (x y : Nat) : Nat := y * g.w + x

/-- `grid(x, y)`: defined exactly on the provider's true rectangle (R61). -/
def Grid.read (g : Grid) (x y : Nat) : Option Byte :=
  if x < g.w ∧ y < g.h then some (Memory.read g.cells (g.addr x y)) else none

/-- The canonical form of a grid: canonical memory, every listed cell inside the rectangle. -/
def Grid.wf (g : Grid) : Bool := Memory.wf g.cells && g.cells.all (fun c => decide (c.1 < g.w * g.h))

/-- The grid of rows of samples, top row first (R109); all rows have length `w`. -/
def Grid.ofRows (w : Nat) (rows : List (List Byte)) : Grid :=
  { w := w, h := rows.length, cells := Memory.writeList [] 0 rows.flatten }

/-- The provider's answer to a sample read. -/
inductive SampleAnswer where
  /-- No answer at this step: the provider takes its time (R72, R243). -/
  | waiting
  /-- `fault`: the read is outside the provider's true dimensions (R62). -/
  | fault
  /-- `ok(s)` (R62). -/
  | ok (v : Byte)
deriving DecidableEq, Repr

/-- `MemRead(GRID, (x, y), 1)` (R62), complete in the step that makes it or not at all (R72). -/
def samplePort (s : State) (x y : Nat) : SampleAnswer :=
  if s.pins.sampleReady then
    match s.grid.read x y with
    | some v => .ok v
    | none => .fault
  else .waiting

/-- Record an answered sample read. -/
def logSample (s : State) (x y : Nat) : State := { s with sampleReads := s.sampleReads ++ [(x, y)] }

/-! ### The byte consumer (R67) -/

/-- `event OutBegin`: a new, empty sequence; any earlier one is dropped. -/
def sendBegin (s : State) : State :=
  { s with out := [], artifact := none, events := s.events ++ [.begin] }

/-- `event OutByte(v)`: the consumer stores `v` as the next element (R65). -/
def sendByte (s : State) (v : Byte) : State :=
  { s with out := s.out ++ [v], events := s.events ++ [.byte v] }

/-- `event OutCommit`: the sequence is complete and, with WIDTH, HEIGHT and OUTCOUNT, is the artifact (R67, R212). -/
def sendCommit (s : State) : State :=
  { s with artifact := some ⟨s.width, s.height, s.k, s.out⟩, events := s.events ++ [.commit] }

/-- `event OutAbort`: every byte is dropped, a committed sequence too. -/
def sendAbort (s : State) : State :=
  { s with out := [], artifact := none, events := s.events ++ [.abort] }

/-! ### Engine operations -/

/-- Write the accumulator. -/
def setAcc (s : State) (v : Byte) : State := { s with acc := v }

/-- Count one more appended byte (R30). -/
def countByte (s : State) : State := { s with k := s.k + 1 }

/-- Error entry, `raise Param()` and `raise Grid()` (R204): the one operation that takes the engine's exceptions.
Nothing is saved and no handler is entered. The way back is `acceptStart` or `resetEngine` (R210). -/
def raiseError (e : Err) (s : State) : State :=
  sendAbort { s with opState := .error, err := e, k := 0 }

/-- START when accepted (R184): a new pack from CHK, and the way out of ERROR (R210). -/
def acceptStart (s : State) : State :=
  setPc (sendBegin { s with opState := .busy, err := .none, k := 0 }) 0 0 .chk

/-- START as a command: accepted in IDLE, DONE and ERROR, discarded in BUSY (R182, R184). -/
def commandStart (s : State) : State := if s.opState = .busy then s else acceptStart s

/-- RESET (R190): OutAbort when a pack was in progress or an artifact stood, then the values of R50. -/
def resetEngine (s : State) : State :=
  { s with
    events := if s.opState = .busy ∨ s.opState = .done then s.events ++ [.abort] else s.events
    opState := .idle, err := .none, width := 0, height := 0, threshold := 128, acc := 0, y := 0, g := 0, slot := .chk,
    k := 0, out := [], artifact := none }

/-! ### The host's registers -/

/-- Write WIDTH (R22). -/
def setWidth (s : State) (v : Nat) : State := { s with width := v }

/-- Write HEIGHT (R23). -/
def setHeight (s : State) (v : Nat) : State := { s with height := v }

/-- Write THRESHOLD, legal or not (R24). -/
def setThreshold (s : State) (t : Int) : State := { s with threshold := t }

/-- `r[n]`: what a read of a register returns (R40 to R48, R180). -/
def readReg (s : State) : Reg → Nat
  | .ctrl => 0
  | .status => (statusWord s).toNat
  | .width => s.width
  | .height => s.height
  | .threshold => thresholdToBits s.params s.threshold
  | .bytecount => byteCount s.width s.height
  | .outcount => s.k
  | .uop => if s.opState = .busy then (fetchWord s).toNat else 0

/-- Hand a read value to the host. -/
def logRead (s : State) (r : Reg) (v : Nat) : State := { s with reads := s.reads ++ [⟨r, v⟩] }

/-- `r[n] <- v` outside BUSY (R181, R183): the command, the three parameter registers, the rest discarded. -/
def writeReg (s : State) (r : Reg) (v : Nat) : State :=
  match r with
  | .ctrl => if dataPhase s.params r v % 2 = 1 then commandStart s else s
  | .width => setWidth s (dataPhase s.params r v)
  | .height => setHeight s (dataPhase s.params r v)
  | .threshold => setThreshold s (thresholdOfBits s.params v)
  | .status => s
  | .bytecount => s
  | .outcount => s
  | .uop => s

/-! ### The step boundary: who moves next (DESIGN CHOICE, notes/assumptions/5.md) -/

/-- The host moves at this boundary: it has a script line, and either the engine is not BUSY (then only the host can
move, R214) or the host takes the boundary (R85). -/
def hostTurn (s : State) : Bool :=
  !s.script.isEmpty && (s.pins.hostFirst || decide (s.opState ≠ .busy))

/-- Drop the script line just done. -/
def popScript (s : State) : State := { s with script := s.script.tail }

/-- The host's next script line (R109). WAIT reads STATUS and stays in front while it reads BUSY (R187). -/
def hostMove (s : State) : Move :=
  match s.script with
  | [] => .quiet
  | .transfer addr data :: _ => .run (.h addr data) (popScript s)
  | .command w :: _ => .run (.c w) (popScript s)
  | .reset :: _ => .reset (popScript s)
  | .wait :: _ => .run (.h 0b0001#4 0) (if s.opState = .busy then s else popScript s)

/-- What happens at a boundary: RESET before everything (R206), then the host, then one micro-operation in BUSY (R140);
otherwise nothing (R231). -/
def nextMove (s : State) : Move :=
  if s.pins.reset then .reset s
  else if hostTurn s then hostMove s
  else if s.opState = .busy then .run (.u (fetchWord s)) s
  else .quiet

/-- The input levels of the next boundary; with none listed the levels hold. -/
def tick (s : State) : State :=
  { s with pins := s.pinsLater.headD s.pins, pinsLater := s.pinsLater.tail }

/-- `tick` after an executed instruction. -/
def afterExec : Host.Outcome State Fault Refusal → Host.Outcome State Fault Refusal
  | .next s => .next (tick s)
  | .fault f => .fault f
  | .refused r => .refused r

/-- The byte that `Refusal.invalidWord` shows. -/
def codeByte : Code → BitVec 8
  | .u w => w
  | .h addr _ => addr.setWidth 8
  | .c w => w

/-! ### Placing an instruction (`State.withFetchWord`) -/

/-- The next boundary belongs to the engine, in BUSY at a slot. -/
def placeSlot (s : State) (slot : Slot) : State :=
  { s with opState := .busy, slot := slot, pins := { s.pins with reset := false, hostFirst := false } }

/-- Place a micro-operation: BUSY at its slot, and for TST and PAD a WIDTH on the side of the column that makes `fetch`
give it (R160). WIDTH is kept where it already does. -/
def placeUop (s : State) (i : Instr) : State :=
  match i with
  | .chk => placeSlot s .chk
  | .clr => placeSlot s .clr
  | .tst b => placeSlot (if column s.g b < s.width then s else setWidth s (column s.g b + 1)) (.bit b)
  | .pad b => placeSlot (if s.width ≤ column s.g b then s else setWidth s (column s.g b)) (.bit b)
  | .emit => placeSlot s .emit
  | .fin => placeSlot s .fin
  | .rd _ => s
  | .wr _ _ => s
  | .start _ => s
  | .nopc _ => s

/-- Place a host transfer or command: the next script line, at a boundary the host takes. -/
def placeHost (s : State) (item : HostItem) : State :=
  { s with script := item :: s.script, pins := { s.pins with reset := false, hostFirst := true } }

/-- Place a word where `step` takes its next instruction from. A format U word that names no micro-operation has no
place: the sequencer cannot produce it (R106). -/
def placeCode (s : State) : Code → State
  | .h addr data => placeHost s (.transfer addr data)
  | .c w => placeHost s (.command w)
  | .u w =>
    match decodeU w with
    | .ok i => placeUop s i
    | .error _ => s

end Sys2Proof.Machine
end

