-- ==== Sys2Proof/Machine/HostOps.lean ====
section
/-!
DEFINITION. The host operations RD, WR, START and NOPC (R180 to R185). RESET, an input without an encoding (R190), is
`resetEngine` in Machine/Ops.lean.
-/
namespace Sys2Proof.Machine

/-- RD n (R180): the value goes to the host; no state of the engine is written. -/
def execRd (r : Reg) (s : State) : Host.Outcome State Fault Refusal :=
  .next (logRead s r (readReg s r))

/-- WR n, v (R181): discarded in BUSY (R182), else the register's write. -/
def execWr (r : Reg) (v : Nat) (s : State) : Host.Outcome State Fault Refusal :=
  .next (if s.opState = .busy then s else writeReg s r v)

/-- START (R184); the ignored bits `_rsv` mean nothing (R94). -/
def execStart (_rsv : BitVec 7) (s : State) : Host.Outcome State Fault Refusal :=
  .next (commandStart s)

/-- NOPC (R185): no effect in any state. -/
def execNopc (_rsv : BitVec 7) (s : State) : Host.Outcome State Fault Refusal :=
  .next s

end Sys2Proof.Machine
end

