-- ==== Sys2Proof/Machine/Uops.lean ====
section
/-!
DEFINITION. The six micro-operations (R140 to R147).
-/
namespace Sys2Proof.Machine

/-- A micro-operation executes only while STATE is BUSY (R140); in the other states the engine takes no step. -/
def whileBusy (s : State) (s' : State) : Host.Outcome State Fault Refusal :=
  .next (if s.opState = .busy then s' else s)

/-- CHK (R141): PARAM for a threshold outside 0..255, else `pc <- first_pc(WIDTH, HEIGHT)` (R162). -/
def execChk (s : State) : Host.Outcome State Fault Refusal :=
  whileBusy s
    (if thresholdLegal s.threshold then setPc s 0 0 (firstSlot s.width s.height) else raiseError .param s)

/-- CLR (R142): `ACC <- 0; pc <- (Y, G, BIT0)`. -/
def execClr (s : State) : Host.Outcome State Fault Refusal :=
  whileBusy s (setPc (setAcc s 0) s.y s.g (.bit 0))

/-- The accumulator write of TST (R143): set bit `7 - b` when the sample is at or above the threshold, else no write. -/
def testSample (b : Fin 8) (v : Byte) (s : State) : State :=
  if sampleSet s.threshold v then setAcc s (s.acc ||| accMask b) else s

/-- TST b (R143, R147): read the sample at `(8*G + b, Y)`; GRID on `fault`; no effect while the port does not answer
(R140). -/
def execTst (b : Fin 8) (s : State) : Host.Outcome State Fault Refusal :=
  whileBusy s
    (match samplePort s (column s.g b) s.y with
      | .waiting => s
      | .fault => raiseError .grid (logSample s (column s.g b) s.y)
      | .ok v => setPc (testSample b v (logSample s (column s.g b) s.y)) s.y s.g (nextSlot b))

/-- PAD b (R144): only `pc <- next`. -/
def execPad (b : Fin 8) (s : State) : Host.Outcome State Fault Refusal :=
  whileBusy s (setPc s s.y s.g (nextSlot b))

/-- EMIT (R145): append ACC, `K <- K + 1`, `pc <- next_group(Y, G)`; no effect while the port does not accept (R140). -/
def execEmit (s : State) : Host.Outcome State Fault Refusal :=
  whileBusy s (if s.pins.byteReady then nextGroup (countByte (sendByte s s.acc)) else s)

/-- FIN (R146): `STATE <- DONE`, `event OutCommit`. -/
def execFin (s : State) : Host.Outcome State Fault Refusal :=
  whileBusy s (sendCommit { s with opState := .done })

end Sys2Proof.Machine
end

