-- ==== Sys2Proof/Machine/Dispatch.lean ====
section
/-!
DEFINITION. The dispatch: one arm per constructor of Instr.
-/
namespace Sys2Proof.Machine

def exec (i : Instr) (s : State) : Host.Outcome State Fault Refusal :=
  match i with
  | .chk => Sys2Proof.Machine.execChk s
  | .clr => Sys2Proof.Machine.execClr s
  | .tst b => Sys2Proof.Machine.execTst b s
  | .pad b => Sys2Proof.Machine.execPad b s
  | .emit => Sys2Proof.Machine.execEmit s
  | .fin => Sys2Proof.Machine.execFin s
  | .rd r => Sys2Proof.Machine.execRd r s
  | .wr r v => Sys2Proof.Machine.execWr r v s
  | .start rsv => Sys2Proof.Machine.execStart rsv s
  | .nopc rsv => Sys2Proof.Machine.execNopc rsv s

end Sys2Proof.Machine
end

