-- ==== Sys2Proof/Machine/Step.lean ====
section
/-!
DEFINITION. One step: at most one of a reset, a host operation or a micro-operation (R85, R140, R206), then the input
levels of the next boundary. Everything it does beside the calls is in Machine/Ops.lean.
-/
namespace Sys2Proof.Machine

def step (s : State) : Host.Outcome State Fault Refusal :=
  match nextMove s with
  | .reset s' => .next (tick (resetEngine s'))
  | .quiet => .next (tick s)
  | .run c s' =>
    match decode c with
    | .ok i => afterExec (exec i s')
    | .error _ => .refused (.invalidWord (codeByte c))

/-- `s` with the instruction of a table word placed so that the next step runs it (notes/assumptions/11.md). -/
def State.withFetchWord (s : State) (nbits w : Nat) : State :=
  match codeOfTableWord nbits w with
  | some c => placeCode s c
  | none => s

end Sys2Proof.Machine
end

