-- ==== Sys2Proof/Machine/Pack.lean ====
section
/-!
DEFINITION. The PACK operation as a whole, a function from the grid, the dimensions and the threshold to the result
(R120 to R136), its group form PACK8 (R133), the program of a pack (R167), and the pseudo-operation PACK as a host script
(R110, R188). The sequencer of Machine/Sequencer.lean is the step-by-step form of the same operation.
-/
namespace Sys2Proof.Machine

/-- The monochrome bit `m(x, y) = [grid(x, y) >= THRESHOLD]` (R121). -/
def pixel (g : Grid) (t : Int) (x y : Nat) : Bool :=
  match g.read x y with
  | some v => decide (t ≤ (v.toNat : Int))
  | none => false

/-- The contribution of bit position `b` to the byte of row `y`, group `grp`: `2^(7-b)` if the column is below the
width and the pixel is set, else 0 (R126). -/
def bitWeight (g : Grid) (w : Nat) (t : Int) (y grp b : Nat) : Nat :=
  if 8 * grp + b < w ∧ pixel g t (8 * grp + b) y then 2 ^ (7 - b) else 0

/-- The sum of the first `n` contributions: what ACC holds after `n` bit slots (R51 (e)). -/
def partialByte (g : Grid) (w : Nat) (t : Int) (y grp : Nat) : Nat → Nat
  | 0 => 0
  | n + 1 => partialByte g w t y grp n + bitWeight g w t y grp n

/-- `byte(y, g)`, the closed form of one byte (R126). -/
def packedByte (g : Grid) (w : Nat) (t : Int) (y grp : Nat) : Byte := BitVec.ofNat 8 (partialByte g w t y grp 8)

/-- The packed byte sequence: element `k` is the byte of row `k div GPR`, group `k mod GPR` (R66, R126). -/
def packedBytes (g : Grid) (w h : Nat) (t : Int) : List Byte :=
  (List.range (byteCount w h)).map (fun k => packedByte g w t (k / gpr w) (k % gpr w))

/-- Every sample read of a pack of `w` by `h` is answered `ok`: no column below `w` and row below `h` lies outside the
provider's rectangle (R62, R84). -/
def gridCovers (g : Grid) (w h : Nat) : Bool := decide (w = 0) || decide (h = 0) || (decide (w ≤ g.w) && decide (h ≤ g.h))

/-- The outcome of a pack (R120, R135, R202, R212). -/
inductive PackResult where
  | paramError
  | gridError
  | artifact (a : Artifact)
deriving DecidableEq, Repr

/-- PACK: the whole operation (R120, R126, R135, R168). PARAM comes before GRID (R206). -/
def pack (g : Grid) (w h : Nat) (t : Int) : PackResult :=
  if thresholdLegal t then
    if gridCovers g w h then .artifact ⟨w, h, byteCount w h, packedBytes g w h t⟩ else .gridError
  else .paramError

/-- The result a state presents: its ERR in ERROR, its artifact in DONE, nothing otherwise (R212). -/
def observed (s : State) : Option PackResult :=
  match s.opState, s.err, s.artifact with
  | .error, .param, _ => some .paramError
  | .error, .grid, _ => some .gridError
  | .done, _, some a => some (.artifact a)
  | _, _, _ => none

/-- The enable mask of a group: `0xFF` for every group but the last of a row, `(0xFF << (8*GPR - WIDTH)) and 0xFF` for
the last (R133). -/
def enableMask (w grp : Nat) : Byte := if grp + 1 < gpr w then 0xFF#8 else 0xFF#8 <<< (8 * gpr w - w)

/-- One lane of PACK8 at its place in the byte: bit `7 - b` (R133). -/
def lane (g : Grid) (t : Int) (y grp : Nat) (b : Fin 8) : Byte :=
  if pixel g t (column grp b) y then accMask b else 0

/-- PACK8: the eight independent lanes of a group at once, under the enable mask (R133). -/
def pack8 (g : Grid) (w : Nat) (t : Int) (y grp : Nat) : Byte :=
  enableMask w grp &&&
    (lane g t y grp 0 ||| lane g t y grp 1 ||| lane g t y grp 2 ||| lane g t y grp 3 |||
     lane g t y grp 4 ||| lane g t y grp 5 ||| lane g t y grp 6 ||| lane g t y grp 7)

/-- The ten words of group `grp`: CLR, eight times TST or PAD, EMIT (R167). -/
def groupProgram (w grp : Nat) : List (BitVec 8) :=
  0x20#8 ::
    ((List.range 8).map (fun b => if 8 * grp + b < w then BitVec.ofNat 8 (0x30 + b) else BitVec.ofNat 8 (0x40 + b)) ++
      [0x50#8])

/-- The whole program of a pack with a legal threshold: CHK, the groups row by row, FIN (R167). -/
def packProgram (w h : Nat) : List (BitVec 8) :=
  0x10#8 :: ((List.range (byteCount w h)).flatMap (fun k => groupProgram w (k % gpr w)) ++ [0x60#8])

/-- The samples in raster order: rows in increasing `y`, within a row columns in increasing `x` (R68). -/
def rasterOrder (w h : Nat) : List (Nat × Nat) :=
  (List.range h).flatMap (fun y => (List.range w).map (fun x => (x, y)))

/-- The steps of a successful pack: `10 * HEIGHT * GPR + 2` (R245). -/
def packSteps (w h : Nat) : Nat := 10 * byteCount w h + 2

/-- The host's line `WR THRESHOLD, t` (R109), and no line where the threshold is left out (R110). -/
def thresholdLine (p : Params) : Option Int → List HostItem
  | some t => [.transfer 0b1100#4 (thresholdToBits p t)]
  | none => []

/-- The pseudo-operation PACK as the host's script: the parameter writes, START, WAIT (R110, R188). `PACK w, h, t` is
`packScript p w h (some t)`; `PACK w, h` is `packScript p w h none`, which leaves THRESHOLD as it is. -/
def packScript (p : Params) (w h : Nat) (t : Option Int) : List HostItem :=
  .transfer 0b1010#4 w :: .transfer 0b1011#4 h :: (thresholdLine p t ++ [.command 0x01#8, .wait])

end Sys2Proof.Machine
end

