-- ==== Sys2Proof/Safety.lean ====
section
/-!
DEFINITION. What counts as a safe run, in the terms the claims use: the invariants of R51, R27 to R31 and R67, the launch
premise of R238, an engine left alone by the outside world, and the trace of words a run decodes.
-/
namespace Sys2Proof.Machine

/-- GRID_CONSISTENT (R238): the provider's true dimensions are exactly WIDTH by HEIGHT. -/
def GridConsistent (s : State) : Prop := s.grid.w = s.width ∧ s.grid.h = s.height

/-- The outside world leaves a running pack alone and both ports always answer (R243: "take the provider as a total
function and the consumer as always ready"): no reset, the host does not take boundaries from a running pack, and the
levels hold. -/
def EngineAlone (s : State) : Prop :=
  s.pins = Pins.quiet ∧ s.pinsLater = []

/-- Every element of the engine is at the value R50 and R230 give for reset. -/
def AtResetValues (s : State) : Prop :=
  s.opState = .idle ∧ s.err = .none ∧ s.width = 0 ∧ s.height = 0 ∧ s.threshold = 128 ∧ s.acc = 0x00#8 ∧
  s.y = 0 ∧ s.g = 0 ∧ s.slot = .chk ∧ s.k = 0 ∧ s.out = []

/-- A slot inside a group: CLR, a bit slot or EMIT, that is neither CHK nor FIN. -/
def Slot.inGroup : Slot → Bool
  | .chk => false
  | .clr => true
  | .bit _ => true
  | .emit => true
  | .fin => false

/-- The number of bit slots done when a group stands at a slot: `b` at BITb and 8 at EMIT (R51 (e)). -/
def Slot.bitsDone : Slot → Option Nat
  | .chk => none
  | .clr => none
  | .bit b => some b.val
  | .emit => some 8
  | .fin => none

/-- Every element holds a value of its width (R20 to R30, R7 to R9), and the grid is in canonical form. -/
structure InRange (s : State) : Prop where
  params : s.params.legal = true
  grid : s.grid.wf = true
  width : s.width < 2 ^ s.params.dimW
  height : s.height < 2 ^ s.params.dimW
  thresholdLow : -(2 ^ (s.params.thrW - 1) : Int) ≤ s.threshold
  thresholdHigh : s.threshold < (2 ^ (s.params.thrW - 1) : Int)
  y : s.y < 2 ^ s.params.dimW
  g : s.g < 2 ^ s.params.dimW
  k : s.k < 2 ^ s.params.cntW

/-- R51 (a) to (d), with the entry (R161) and the end (R165, R30) of a pack: where the engine stands agrees with its
counters. -/
structure ControlInv (s : State) : Prop where
  range : InRange s
  /-- R51 (a). -/
  outLength : s.out.length = s.k
  /-- R51 (b). -/
  noOutput : s.opState = .idle ∨ s.opState = .error → s.k = 0 ∧ s.out = []
  /-- R51 (c). -/
  errIff : s.err ≠ .none ↔ s.opState = .error
  /-- R161: a pack stands at CHK only at its entry. -/
  atChk : s.opState = .busy → s.slot = .chk → s.y = 0 ∧ s.g = 0 ∧ s.k = 0
  /-- R51 (d). -/
  inGroup : s.opState = .busy → s.slot.inGroup = true →
    s.y < s.height ∧ s.g < gpr s.width ∧ s.k = s.y * gpr s.width + s.g ∧ thresholdLegal s.threshold = true
  /-- At FIN every byte has been appended (R30, R165). -/
  atFin : s.opState = .busy → s.slot = .fin →
    s.k = byteCount s.width s.height ∧ thresholdLegal s.threshold = true

/-- R51 (e) and (f): what ACC, OUT and the artifact hold. -/
structure DataInv (s : State) : Prop where
  /-- R51 (e). -/
  accHolds : s.opState = .busy → ∀ n, s.slot.bitsDone = some n →
    s.acc.toNat = partialByte s.grid s.width s.threshold s.y s.g n
  /-- In BUSY the bytes so far are the first K of the closed form (R66, R126). -/
  outPrefix : s.opState = .busy → s.out = (packedBytes s.grid s.width s.height s.threshold).take s.k
  /-- R51 (f) and R212: in DONE the artifact stands, and its bytes are OUT, the closed form for the dimensions it
  names and some legal threshold (the one the pack started with). -/
  doneArtifact : s.opState = .done → ∃ a t, s.artifact = some a ∧ thresholdLegal t = true ∧
    a.byteCount = s.k ∧ a.bytes = s.out ∧ a.byteCount = byteCount a.width a.height ∧
    s.out = packedBytes s.grid a.width a.height t
  /-- R212: the artifact exists in no other state. -/
  noArtifact : s.opState ≠ .done → s.artifact = none

/-- What the byte consumer knows from the events alone. -/
inductive ConsumerPhase where
  | empty | receiving | committed
deriving DecidableEq, Repr

/-- The consumer's phase and bytes after one more event; `none` where R67 and R79 do not allow the event there: bytes,
OutCommit only inside a pack, OutAbort only inside a pack or after OutCommit, OutBegin never inside a pack. -/
def consume : Option (ConsumerPhase × List Byte) → OutEvent → Option (ConsumerPhase × List Byte)
  | none, _ => none
  | some (.receiving, _), .begin => none
  | some (_, _), .begin => some (.receiving, [])
  | some (.receiving, bs), .byte v => some (.receiving, bs ++ [v])
  | some (_, _), .byte _ => none
  | some (.receiving, bs), .commit => some (.committed, bs)
  | some (_, _), .commit => none
  | some (.empty, _), .abort => none
  | some (_, _), .abort => some (.empty, [])

/-- The consumer's view after all events, from an empty sequence. -/
def replay (es : List OutEvent) : Option (ConsumerPhase × List Byte) := es.foldl consume (some (.empty, []))

/-- The phase the operating state stands for. -/
def phaseOf : OpState → ConsumerPhase
  | .idle => .empty
  | .busy => .receiving
  | .done => .committed
  | .error => .empty

/-- The events sent so far are a legal sequence, and they leave the consumer with exactly OUT (R67, R79). -/
def PortInv (s : State) : Prop := replay s.events = some (phaseOf s.opState, s.out)

/-- `n` steps of the machine. -/
def runFor (n : Nat) (s : State) : Host.Outcome State Fault Refusal := Sys2Proof.core.run n s

/-- A run that has just ended, counted from `s`: after `n` steps the machine is in `t`, in DONE or ERROR, and was in BUSY
at every boundary before (R168). Nothing is asked of the input levels or the host: the ports may make the engine wait, and
the host may read and write between its steps. A pack stopped by RESET does not end in this sense. -/
def PackEnds (n : Nat) (s t : State) : Prop :=
  runFor n s = .next t ∧ (∀ m < n, ∃ u, runFor m s = .next u ∧ u.opState = .busy) ∧
  (t.opState = .done ∨ t.opState = .error)

/-- Two states agree on all a pack's result may depend on: the grid, WIDTH, HEIGHT and THRESHOLD (R129). -/
def SameInputs (s s' : State) : Prop :=
  s.grid = s'.grid ∧ s.width = s'.width ∧ s.height = s'.height ∧ s.threshold = s'.threshold

/-- The six micro-operations (R140). -/
def isUop : Instr → Bool
  | .chk => true
  | .clr => true
  | .tst _ => true
  | .pad _ => true
  | .emit => true
  | .fin => true
  | .rd _ => false
  | .wr _ _ => false
  | .start _ => false
  | .nopc _ => false

/-- The format U words the engine decodes in the next `n` steps, oldest first; a step that resets, rests or serves the
host adds none. -/
def uopTrace : Nat → State → List (BitVec 8)
  | 0, _ => []
  | n + 1, s =>
    let here := match nextMove s with
      | .run (.u w) _ => [w]
      | _ => []
    match step s with
    | .next t => here ++ uopTrace n t
    | .fault _ => here
    | .refused _ => here

end Sys2Proof.Machine
end

