-- ==== Sys2Proof/Certificates/Slice0/Obligations.lean ====
section
/-!
DEFINITION. The statements for the provers. Each docstring names the rules of spec/ it is about; OBLIGATIONS.json lists
them.
-/
open Sys2Proof Sys2Proof.Machine

/-! ### Encoding and decoding -/

/-- R94, R100, R101, R102: decoding an encoded instruction gives it back, with every operand at every value. -/
def Obligations.DecodeUndoesEncode : Prop :=
  ∀ i : Instr, decode (encode i) = .ok i

/-- R94, R100, R101, R102: each word has one meaning; encoding what a word decodes to gives the word back (the data
phase of a read comes from the engine, so the host's part of it is 0). -/
def Obligations.EncodeUndoesDecode : Prop :=
  ∀ (c : Code) (i : Instr), decode c = .ok i →
    (∀ addr data, c = .h addr data → addr.getLsbD 3 = false → data = 0) → encode i = c

/-- R106: the decoder of format U accepts exactly the 20 valid words and calls every other invalid; the sequencer never
produces an invalid word; 0x00 is what UOP reads outside BUSY; no step stops on an illegal word. -/
def Obligations.DecoderAcceptsTwentyWords : Prop :=
  (∀ w : BitVec 8, (∃ i, decode (.u w) = .ok i) ↔
    w ∈ [0x10#8, 0x20#8, 0x30#8, 0x31#8, 0x32#8, 0x33#8, 0x34#8, 0x35#8, 0x36#8, 0x37#8, 0x40#8, 0x41#8, 0x42#8, 0x43#8,
      0x44#8, 0x45#8, 0x46#8, 0x47#8, 0x50#8, 0x60#8]) ∧
  (∀ s : State, ∃ i, decode (.u (fetchWord s)) = .ok i) ∧
  (∀ s : State, s.opState ≠ .busy → readReg s .uop = 0) ∧
  (∀ (s : State) (w : BitVec 8), step s ≠ .refused (.invalidWord w))

/-- R101, R102, R94, R106: words written out bit by bit from the spec's encodings decode to the instructions they stand
for, and invalid words are rejected by name. -/
def Obligations.SpecWordsDecode : Prop :=
  decode (.u 0b00010000#8) = .ok .chk ∧ decode (.u 0b00100000#8) = .ok .clr ∧
  decode (.u 0b00110010#8) = .ok (.tst 2) ∧ decode (.u 0b01000011#8) = .ok (.pad 3) ∧
  decode (.u 0b01010000#8) = .ok .emit ∧ decode (.u 0b01100000#8) = .ok .fin ∧
  decode (.h 0b0110#4 0) = .ok (.rd .outcount) ∧ decode (.h 0b1010#4 3) = .ok (.wr .width 3) ∧
  decode (.c 0b11111111#8) = .ok (.start 0b1111111#7) ∧ decode (.c 0b11111110#8) = .ok (.nopc 0b1111111#7) ∧
  decode (.u 0b00010001#8) = .error .operandNotZero ∧ decode (.u 0b00111000#8) = .error .bit3Set ∧
  decode (.u 0b01110000#8) = .error .reservedOp ∧ decode (.u 0b00000000#8) = .error .reservedOp

/-- R94: bit 0 of a command word selects START or NOPC; bits 7:1 are ignored, so two words with the same bit 0 do the
same in every state, as command words and as data of WR CTRL. -/
def Obligations.CommandWordBits : Prop :=
  (∀ w : BitVec 8, ∃ rsv, decode (.c w) = .ok (if w.getLsbD 0 then .start rsv else .nopc rsv)) ∧
  (∀ (w w' : BitVec 8) (i i' : Instr) (s : State), w.getLsbD 0 = w'.getLsbD 0 →
    decode (.c w) = .ok i → decode (.c w') = .ok i' → exec i s = exec i' s) ∧
  (∀ (w : BitVec 8) (i : Instr) (s : State), decode (.c w) = .ok i → exec (.wr .ctrl w.toNat) s = exec i s)

/-! ### Fetch and step -/

/-- R160: the table of `fetch`, its words and the micro-operations they are. It reads WIDTH and pc alone: two states
that agree on WIDTH, G and S fetch the same word. -/
def Obligations.FetchTable : Prop :=
  (∀ w g, (fetch w g .chk).toNat = 0x10 ∧ (fetch w g .clr).toNat = 0x20 ∧ (fetch w g .emit).toNat = 0x50 ∧
    (fetch w g .fin).toNat = 0x60) ∧
  (∀ (w g : Nat) (b : Fin 8), 8 * g + b.val < w → (fetch w g (.bit b)).toNat = 0x30 + b.val) ∧
  (∀ (w g : Nat) (b : Fin 8), w ≤ 8 * g + b.val → (fetch w g (.bit b)).toNat = 0x40 + b.val) ∧
  (decode (.u 0x10#8) = .ok .chk ∧ decode (.u 0x20#8) = .ok .clr ∧ decode (.u 0x50#8) = .ok .emit ∧
    decode (.u 0x60#8) = .ok .fin ∧ ∀ b : Fin 8, decode (.u (BitVec.ofNat 8 (0x30 + b.val))) = .ok (.tst b) ∧
      decode (.u (BitVec.ofNat 8 (0x40 + b.val))) = .ok (.pad b)) ∧
  (∀ s t : State, s.width = t.width → s.g = t.g → s.slot = t.slot → fetchWord s = fetchWord t)

/-- R160, R101: in every state the fetched word decodes to the micro-operation the table of R160 names for the slot. -/
def Obligations.FetchedWordDecodes : Prop :=
  ∀ s : State, decode (.u (fetchWord s)) = .ok (match s.slot with
    | .chk => .chk
    | .clr => .clr
    | .bit b => if 8 * s.g + b.val < s.width then .tst b else .pad b
    | .emit => .emit
    | .fin => .fin)

/-- R140, R85: in BUSY, with no reset and the host not taking the boundary, a step is the execution of the fetched
micro-operation, and then the input levels of the next boundary. Who takes a boundary is plain data in State, the model's
choice (notes/assumptions/5.md). -/
def Obligations.StepRunsFetchedUop : Prop :=
  ∀ (s t : State) (i : Instr), s.pins.reset = false → hostTurn s = false → s.opState = .busy →
    decode (.u (fetchWord s)) = .ok i → exec i s = .next t →
    step s = .next { t with pins := t.pinsLater.headD t.pins, pinsLater := t.pinsLater.tail }

/-- R85, R180, R181, R109: with no reset and the host moving, a step is the execution of the host's next line, a
transfer or a command word, in the state without that line, and then the input levels of the next boundary. The script
and who takes a boundary are the model's choice (notes/assumptions/5.md). -/
def Obligations.StepRunsHostLine : Prop :=
  ∀ (s t : State) (i : Instr) (item : HostItem) (rest : List HostItem) (c : Code),
    s.pins.reset = false → hostTurn s = true → s.script = item :: rest →
    (∃ addr data, item = .transfer addr data ∧ c = .h addr data) ∨ (∃ w, item = .command w ∧ c = .c w) →
    decode c = .ok i → exec i { s with script := rest } = .next t →
    step s = .next { t with pins := t.pinsLater.headD t.pins, pinsLater := t.pinsLater.tail }

/-- R106, R160, R200: in every state a step answers a next state; nothing stops the machine. That a step is also answered
where a port makes the engine wait, and at a boundary where nobody moves, is the model's choice of form
(notes/assumptions/6.md, 5.md). -/
def Obligations.StepAlwaysAnswers : Prop :=
  ∀ s : State, ∃ t, step s = .next t

/-- R25, R214, R231: outside BUSY, with no reset and no host line, the engine takes no step: only the input levels move
on. The levels are the model's choice of form (notes/assumptions/5.md). -/
def Obligations.EngineRestsOutsideBusy : Prop :=
  ∀ s : State, s.pins.reset = false → s.script = [] → s.opState ≠ .busy →
    step s = .next { s with pins := s.pinsLater.headD s.pins, pinsLater := s.pinsLater.tail }

/-- R25: the codes of STATE, and its only transitions: RESET to IDLE; START outside BUSY to BUSY; CHK to ERROR on a bad
threshold; TST to ERROR on a grid fault; FIN to DONE. -/
def Obligations.StateTransitions : Prop :=
  (∀ s : State, (statusWord s).toNat % 4 =
    match s.opState with | .idle => 0 | .busy => 1 | .done => 2 | .error => 3) ∧
  (∀ s t : State, step s = .next t → t.opState ≠ s.opState →
    (t.opState = .idle ∧ ∃ s', nextMove s = .reset s') ∨
    (s.opState ≠ .busy ∧ t.opState = .busy ∧ ∃ c s' i, nextMove s = .run c s' ∧ decode c = .ok i ∧
      ((∃ rsv, i = .start rsv) ∨ (∃ v, i = .wr .ctrl v))) ∨
    (s.opState = .busy ∧ t.opState = .error ∧ s.slot = .chk ∧ (s.threshold < 0 ∨ 255 < s.threshold)) ∨
    (s.opState = .busy ∧ t.opState = .error ∧ ∃ b, s.slot = .bit b ∧ 8 * s.g + b.val < s.width ∧
      s.grid.read (8 * s.g + b.val) s.y = none) ∨
    (s.opState = .busy ∧ t.opState = .done ∧ s.slot = .fin))

/-! ### Reset -/

/-- R190: RESET, by the input at any state with priority over engine step and host operation (whose script line stays),
or as the host's script line: OutAbort in BUSY and DONE, then the reset values. It is the only way to stop a pack in
progress: no other step leaves BUSY for IDLE. That the script and the input levels outlive a reset is the model's choice
(notes/assumptions/5.md, 15.md). -/
def Obligations.ResetAppliesItsValues : Prop :=
  (∀ s : State, s.pins.reset = true → step s = .next (tick { s with
    events := if s.opState = .busy ∨ s.opState = .done then s.events ++ [.abort] else s.events
    opState := .idle, err := .none, width := 0, height := 0, threshold := 128, acc := 0x00#8, y := 0, g := 0, slot := .chk
    k := 0, out := [], artifact := none })) ∧
  (∀ (s : State) (rest : List HostItem), s.pins.reset = false → hostTurn s = true → s.script = .reset :: rest →
    step s = .next (tick { s with
      script := rest
      events := if s.opState = .busy ∨ s.opState = .done then s.events ++ [.abort] else s.events
      opState := .idle, err := .none, width := 0, height := 0, threshold := 128, acc := 0x00#8, y := 0, g := 0
      slot := .chk, k := 0, out := [], artifact := none })) ∧
  (∀ s t : State, s.opState = .busy → step s = .next t → t.opState = .idle →
    s.pins.reset = true ∨ (hostTurn s = true ∧ s.script.head? = some .reset))

/-- R230: a reset puts every state element at the value of R50, and State.reset is such a state. -/
def Obligations.ResetValues : Prop :=
  (∀ s : State, s.pins.reset = true → ∃ t, step s = .next t ∧ AtResetValues t) ∧ AtResetValues State.reset

/-! ### The micro-operations -/

/-- R141, R162, R201, R204: CHK in BUSY. A threshold in 0..255 gives `first_pc`; any other raises PARAM, with the whole
of error entry. Nothing else changes. -/
def Obligations.ChkValidatesThreshold : Prop :=
  (∀ s : State, s.opState = .busy → 0 ≤ s.threshold → s.threshold ≤ 255 →
    exec .chk s = .next { s with y := 0, g := 0, slot := if s.height = 0 ∨ s.width = 0 then .fin else .clr }) ∧
  (∀ s : State, s.opState = .busy → s.threshold < 0 ∨ 255 < s.threshold →
    exec .chk s = .next { s with
      opState := .error, err := .param, k := 0, out := [], artifact := none
      events := s.events ++ [.abort] })

/-- R142, R163: CLR in BUSY clears ACC and goes to BIT0. Nothing else changes. -/
def Obligations.ClrClearsAccumulator : Prop :=
  ∀ s : State, s.opState = .busy → exec .clr s = .next { s with acc := 0x00#8, slot := .bit 0 }

/-- R143, R147: TST b in BUSY with the sample port answering. On `ok(v)` ACC gets `0x80 >> b` exactly when `v` is at or
above the low 8 bits of THRESHOLD, and the slot advances; on `fault` the GRID error is entered with ACC and pc as they
were. Nothing else changes but the record of the read. -/
def Obligations.TstTestsOneSample : Prop :=
  (∀ (s : State) (b : Fin 8) (v : Byte), s.opState = .busy → s.pins.sampleReady = true →
    s.grid.read (8 * s.g + b.val) s.y = some v →
    exec (.tst b) s = .next { s with
      acc := if s.threshold % 256 ≤ (v.toNat : Int) then s.acc ||| (0x80#8 >>> b.val) else s.acc
      slot := if h : b.val + 1 < 8 then .bit ⟨b.val + 1, h⟩ else .emit
      sampleReads := s.sampleReads ++ [(8 * s.g + b.val, s.y)] }) ∧
  (∀ (s : State) (b : Fin 8), s.opState = .busy → s.pins.sampleReady = true →
    s.grid.read (8 * s.g + b.val) s.y = none →
    exec (.tst b) s = .next { s with
      opState := .error, err := .grid, k := 0, out := [], artifact := none
      events := s.events ++ [.abort], sampleReads := s.sampleReads ++ [(8 * s.g + b.val, s.y)] })

/-- R143, R103, R121: TST b writes bit `7 - b` of ACC and no other, only from 0 to 1, exactly when the sample is at or
above a legal threshold. -/
def Obligations.TstSetsOneBit : Prop :=
  ∀ (s t : State) (b : Fin 8) (v : Byte) (j : Nat), s.opState = .busy → s.pins.sampleReady = true → j < 8 →
    0 ≤ s.threshold → s.threshold ≤ 255 → s.grid.read (8 * s.g + b.val) s.y = some v → exec (.tst b) s = .next t →
    t.acc.getLsbD j = (s.acc.getLsbD j || (decide (j = 7 - b.val) && decide (s.threshold ≤ (v.toNat : Int))))

/-- R144, R164: PAD b in BUSY only advances the slot: to BIT(b+1), and to EMIT after `b = 7`. -/
def Obligations.PadOnlyAdvances : Prop :=
  ∀ (s : State) (b : Fin 8), s.opState = .busy →
    exec (.pad b) s = .next { s with slot := if h : b.val + 1 < 8 then .bit ⟨b.val + 1, h⟩ else .emit }

/-- R145, R165: EMIT in BUSY with the byte port accepting appends ACC, counts it, and goes to the next group of the row,
else to the first group of the next row, else to FIN. Nothing else changes. Where K is the length of OUT, the byte
appended is element K, and every earlier element stays. That G keeps its value at the last EMIT of all is R165's
word against R28's, by the model's reading of R26 and R145 (notes/assumptions/16.md). -/
def Obligations.EmitAppendsAccumulator : Prop :=
  ∀ s : State, s.opState = .busy → s.pins.byteReady = true →
    ∃ t, exec .emit s = .next t ∧
      t = { s with
        out := s.out ++ [s.acc], k := s.k + 1, events := s.events ++ [.byte s.acc]
        y := if s.g + 1 < (s.width + 7) / 8 then s.y else if s.y + 1 < s.height then s.y + 1 else s.y
        g := if s.g + 1 < (s.width + 7) / 8 then s.g + 1 else if s.y + 1 < s.height then 0 else s.g
        slot := if s.g + 1 < (s.width + 7) / 8 then .clr else if s.y + 1 < s.height then .clr else .fin } ∧
      (s.out.length = s.k → t.out[s.k]? = some s.acc) ∧ (∀ j < s.out.length, t.out[j]? = s.out[j]?)

/-- R146: FIN in BUSY makes STATE DONE and sends OutCommit; the consumer then holds the artifact (WIDTH, HEIGHT, K,
OUT), a field of the model (notes/assumptions/8.md). Nothing else changes. -/
def Obligations.FinFinishes : Prop :=
  ∀ s : State, s.opState = .busy →
    exec .fin s = .next { s with
      opState := .done, artifact := some ⟨s.width, s.height, s.k, s.out⟩
      events := s.events ++ [.commit] }

/-- R140, R25: outside BUSY no micro-operation executes. No step asks for one there; that `exec` then leaves the state as
it is, is the model's reading (notes/assumptions/9.md). -/
def Obligations.UopsExecuteOnlyInBusy : Prop :=
  ∀ (s : State) (i : Instr), isUop i = true → s.opState ≠ .busy → exec i s = .next s

/-- R140, R72: where the port a micro-operation needs does not answer, none of its effects happens. That the waiting
engine's step answers the same state is the model's form of it (notes/assumptions/6.md). -/
def Obligations.StalledPortNoEffect : Prop :=
  (∀ (s : State) (b : Fin 8), s.opState = .busy → s.pins.sampleReady = false → exec (.tst b) s = .next s) ∧
  (∀ s : State, s.opState = .busy → s.pins.byteReady = false → exec .emit s = .next s)

/-- R243: if the neighbour the engine needs never answers, the engine stays in BUSY at the same pc for ever. -/
def Obligations.StalledEngineStays : Prop :=
  ∀ (s : State) (n : Nat), s.opState = .busy → s.pins.reset = false → hostTurn s = false → s.pinsLater = [] →
    (s.slot = .emit ∧ s.pins.byteReady = false) ∨
      (∃ b : Fin 8, s.slot = .bit b ∧ 8 * s.g + b.val < s.width ∧ s.pins.sampleReady = false) →
    runFor n s = .next s

/-- R140, R60, R76: the frame of all six micro-operations. No parameter register changes, none of the host's side, no
sample of the grid; OUT and K change only by EMIT's append and by error entry, and EMIT leaves every earlier byte. -/
def Obligations.UopFrame : Prop :=
  ∀ (s t : State) (i : Instr), isUop i = true → exec i s = .next t →
    t.params = s.params ∧ t.width = s.width ∧ t.height = s.height ∧ t.threshold = s.threshold ∧
    t.reads = s.reads ∧ t.script = s.script ∧ t.pins = s.pins ∧ t.pinsLater = s.pinsLater ∧
    (∀ x y, t.grid.read x y = s.grid.read x y) ∧
    (i ≠ .emit → t.opState ≠ .error → t.out = s.out ∧ t.k = s.k) ∧
    (i = .emit → ∀ j < s.out.length, t.out[j]? = s.out[j]?) ∧
    ((∀ b, i ≠ .tst b) → i ≠ .clr → t.acc = s.acc) ∧
    ((∀ b, i ≠ .tst b) → t.sampleReads = s.sampleReads)

/-! ### The host's operations -/

/-- R180: RD n returns `r[n]` in every state: CTRL 0; STATUS `4 * ERR + STATE`; the parameters as stored, THRESHOLD in
two's complement; BYTECOUNT from the stored values; OUTCOUNT K; UOP the fetched word in BUSY, else 0. Nothing of the
engine changes. -/
def Obligations.RdReturnsRegister : Prop :=
  ∀ (s : State) (r : Reg), exec (.rd r) s = .next { s with reads := s.reads ++ [⟨r, match r with
    | .ctrl => 0
    | .status => 4 * (match s.err with | .none => 0 | .param => 1 | .grid => 2) +
        (match s.opState with | .idle => 0 | .busy => 1 | .done => 2 | .error => 3)
    | .width => s.width
    | .height => s.height
    | .threshold => (s.threshold % 2 ^ s.params.thrW).toNat
    | .bytecount => s.height * ((s.width + 7) / 8)
    | .outcount => s.k
    | .uop => if s.opState = .busy then (fetch s.width s.g s.slot).toNat else 0⟩] }

/-- R181, R183: WR n, v with a value of the register's width. Discarded in BUSY; else CTRL is the command, WIDTH, HEIGHT
and THRESHOLD take the value (THRESHOLD as two's complement), and the read-only registers discard it. Nothing else
changes. -/
def Obligations.WrWritesRegister : Prop :=
  (∀ (s : State) (r : Reg) (v : Nat), s.opState = .busy → exec (.wr r v) s = .next s) ∧
  (∀ (s : State) (v : Nat), s.opState ≠ .busy → v < 2 ^ 8 →
    exec (.wr .ctrl v) s = .next (if v % 2 = 1 then { s with
      opState := .busy, err := .none, k := 0, out := [], artifact := none, events := s.events ++ [.begin]
      y := 0, g := 0, slot := .chk } else s)) ∧
  (∀ (s : State) (v : Nat), s.opState ≠ .busy → v < 2 ^ s.params.dimW →
    exec (.wr .width v) s = .next { s with width := v } ∧ exec (.wr .height v) s = .next { s with height := v }) ∧
  (∀ (s : State) (v : Nat), s.opState ≠ .busy → s.params.legal = true → v < 2 ^ s.params.thrW →
    exec (.wr .threshold v) s = .next { s with
      threshold := if v < 2 ^ (s.params.thrW - 1) then (v : Int) else (v : Int) - 2 ^ s.params.thrW }) ∧
  (∀ (s : State) (r : Reg) (v : Nat), r ∈ [Reg.status, .bytecount, .outcount, .uop] → exec (.wr r v) s = .next s)

/-- R182, R242: in BUSY every write and START is discarded: no state changes. -/
def Obligations.BusyDiscardsWrites : Prop :=
  ∀ (s : State) (r : Reg) (v : Nat) (rsv : BitVec 7), s.opState = .busy →
    exec (.wr r v) s = .next s ∧ exec (.start rsv) s = .next s

/-- R43, R24: outside BUSY a parameter register reads back the last value written, THRESHOLD in full, legal or not. -/
def Obligations.ParametersReadBack : Prop :=
  ∀ (s : State) (r : Reg) (v : Nat), r ∈ [Reg.width, .height, .threshold] → s.opState ≠ .busy →
    (Instr.wr r v).wellFormed s.params = true →
    ∃ t u, exec (.wr r v) s = .next t ∧ exec (.rd r) t = .next u ∧ u.reads = s.reads ++ [⟨r, v⟩]

/-- R184: START accepted in IDLE, DONE and ERROR begins a pack; in BUSY it is discarded. Its ignored bits mean nothing. -/
def Obligations.StartBeginsPack : Prop :=
  (∀ (s : State) (rsv : BitVec 7), s.opState ≠ .busy →
    exec (.start rsv) s = .next { s with
      opState := .busy, err := .none, k := 0, out := [], artifact := none
      events := s.events ++ [.begin], y := 0, g := 0, slot := .chk }) ∧
  (∀ (s : State) (rsv : BitVec 7), s.opState = .busy → exec (.start rsv) s = .next s)

/-- R185: NOPC, as a command word and as an even value written to CTRL, has no effect in any state. -/
def Obligations.NopcDoesNothing : Prop :=
  (∀ (s : State) (rsv : BitVec 7), exec (.nopc rsv) s = .next s) ∧
  (∀ (s : State) (v : Nat), v < 2 ^ 8 → v % 2 = 0 → exec (.wr .ctrl v) s = .next s)

/-- R181, R180, R22 to R25: the frame of the host operations other than START: the engine's working state, OUT, the
grid and the ports are as before, and a write outside CTRL changes no other parameter register than its own. -/
def Obligations.HostOperationFrame : Prop :=
  ∀ (s t : State) (i : Instr),
    (∃ r, i = .rd r) ∨ (∃ r v, i = .wr r v ∧ r ≠ .ctrl) ∨ (∃ rsv, i = .nopc rsv) → exec i s = .next t →
    t.opState = s.opState ∧ t.err = s.err ∧ t.acc = s.acc ∧ t.y = s.y ∧ t.g = s.g ∧ t.slot = s.slot ∧ t.k = s.k ∧
    t.out = s.out ∧ t.artifact = s.artifact ∧ t.events = s.events ∧ t.sampleReads = s.sampleReads ∧
    t.params = s.params ∧ t.script = s.script ∧ t.pins = s.pins ∧ t.pinsLater = s.pinsLater ∧
    (∀ x y, t.grid.read x y = s.grid.read x y) ∧
    ((∀ v, i ≠ .wr .width v) → t.width = s.width) ∧ ((∀ v, i ≠ .wr .height v) → t.height = s.height) ∧
    ((∀ v, i ≠ .wr .threshold v) → t.threshold = s.threshold) ∧ ((∀ r, i ≠ .rd r) → t.reads = s.reads)

/-- R187: WAIT reads STATUS; it ends with the first value that is not BUSY and stays in front of the script otherwise.
Where the line stands meanwhile is the model's choice (notes/assumptions/14.md). -/
def Obligations.WaitPollsStatus : Prop :=
  (∀ (s : State) (rest : List HostItem), s.pins.reset = false → s.script = .wait :: rest → s.opState ≠ .busy →
    step s = .next (tick { s with script := rest, reads := s.reads ++ [⟨.status, (statusWord s).toNat⟩] })) ∧
  (∀ (s : State) (rest : List HostItem), s.pins.reset = false → s.pins.hostFirst = true → s.script = .wait :: rest →
    s.opState = .busy →
    step s = .next (tick { s with reads := s.reads ++ [⟨.status, (statusWord s).toNat⟩] }))

/-- R188, R110: the script of PACK w, h, t and of PACK w, h, from any state but BUSY, writes the parameters it names and
starts the pack, in four steps and in three, with WAIT left to do; PACK w, h leaves THRESHOLD at the value it holds. One
script line a step is the model's choice (notes/assumptions/5.md). -/
def Obligations.PackScriptStartsPack : Prop :=
  ∀ (s : State) (w h : Nat) (t : Option Int) (rest : List HostItem), EngineAlone s → s.opState ≠ .busy →
    s.params.legal = true → w < 2 ^ s.params.dimW → h < 2 ^ s.params.dimW →
    (∀ v, t = some v → -(2 ^ (s.params.thrW - 1) : Int) ≤ v ∧ v < (2 ^ (s.params.thrW - 1) : Int)) →
    s.script = packScript s.params w h t ++ rest →
    runFor (if t = none then 3 else 4) s = .next { s with
      width := w, height := h, threshold := t.getD s.threshold, script := .wait :: rest
      opState := .busy, err := .none, k := 0, out := [], artifact := none, events := s.events ++ [.begin]
      y := 0, g := 0, slot := .chk }

/-! ### Status and derived registers -/

/-- R42, R32: in a state that meets R51 (c), STATUS takes only the five values, each in its own state and cause. -/
def Obligations.StatusTakesFiveValues : Prop :=
  ∀ s : State, (s.err ≠ .none ↔ s.opState = .error) →
    (statusWord s = 0x00#8 ∧ s.opState = .idle) ∨ (statusWord s = 0x01#8 ∧ s.opState = .busy) ∨
    (statusWord s = 0x02#8 ∧ s.opState = .done) ∨ (statusWord s = 0x07#8 ∧ s.opState = .error ∧ s.err = .param) ∨
    (statusWord s = 0x0B#8 ∧ s.opState = .error ∧ s.err = .grid)

/-- R208: `irq` is high exactly in DONE and ERROR: low after reset, low once START is accepted, high in the step that
executes FIN or raises an error; only START or RESET clears it, a read of STATUS does not. -/
def Obligations.IrqFollowsState : Prop :=
  (∀ s : State, irq s = true ↔ s.opState = .done ∨ s.opState = .error) ∧ irq State.reset = false ∧
  (∀ (s t : State) (rsv : BitVec 7), exec (.start rsv) s = .next t → irq t = false) ∧
  (∀ s t : State, s.opState = .busy → exec .fin s = .next t → irq t = true) ∧
  (∀ (s t : State) (i : Instr), s.err = .none → exec i s = .next t → t.err ≠ .none → irq t = true) ∧
  (∀ s t : State, irq s = true → step s = .next t → irq t = false →
    (∃ s', nextMove s = .reset s') ∨ ∃ c s' i, nextMove s = .run c s' ∧ decode c = .ok i ∧
      ((∃ rsv, i = .start rsv) ∨ (∃ v, i = .wr .ctrl v)))

/-- R241, R46, R47: in DONE a write to WIDTH changes BYTECOUNT to the count for the new value, while OUTCOUNT, STATUS and
the artifact stay. -/
def Obligations.ByteCountFollowsRegisters : Prop :=
  ∀ (s : State) (v : Nat), s.opState = .done → v < 2 ^ s.params.dimW →
    ∃ t, exec (.wr .width v) s = .next t ∧ readReg t .bytecount = s.height * ((v + 7) / 8) ∧
      readReg t .outcount = readReg s .outcount ∧ readReg t .status = readReg s .status ∧ t.artifact = s.artifact

/-- R124, R104: GPR is `ceil(WIDTH / 8)`: 0 for width 0, and `n` exactly for `8n-7 .. 8n`; the assembly without a carry
out of DIM_W bits gives the same, and it is at most `2^(DIM_W-3)`. -/
def Obligations.GroupsPerRow : Prop :=
  gpr 0 = 0 ∧ (∀ w n : Nat, 0 < n → (gpr w = n ↔ 8 * n - 7 ≤ w ∧ w ≤ 8 * n)) ∧ (∀ w, gprAssembled w = gpr w) ∧
  (∀ w d : Nat, 3 ≤ d → w < 2 ^ d → gpr w ≤ 2 ^ (d - 3))

/-- R9, R132: the byte count is below `2^(2*DIM_W-3)`, so it fits CNT_W; the column of a bit slot fits DIM_W (R103). -/
def Obligations.CountsAndColumnsFit : Prop :=
  ∀ (p : Params) (w h : Nat), p.legal = true → w < 2 ^ p.dimW → h < 2 ^ p.dimW →
    byteCount w h < 2 ^ (2 * p.dimW - 3) ∧ byteCount w h < 2 ^ p.cntW ∧
    ∀ (g : Nat) (b : Fin 8), g < gpr w → column g b < 2 ^ p.dimW

/-! ### The grid and its reads -/

/-- R62, R61, R63: a sample read that is answered gives `ok` with the sample at `y * w + x` of the provider's store
inside its true rectangle, and `fault` outside. That the provider keeps a linear store at `y * w + x`, and that a sample
the store does not list reads as 0, are the model's choice (notes/assumptions/3.md, 4.md). -/
def Obligations.ProviderAnswers : Prop :=
  ∀ (s : State) (x y : Nat), s.pins.sampleReady = true →
    (x < s.grid.w ∧ y < s.grid.h → samplePort s x y = .ok (Memory.read s.grid.cells (y * s.grid.w + x))) ∧
    (¬ (x < s.grid.w ∧ y < s.grid.h) → samplePort s x y = .fault)

/-- R84: the engine reads a sample only at `x < WIDTH`, `y < HEIGHT`. -/
def Obligations.ReadsStayInRange : Prop :=
  ∀ s t : State, ControlInv s → step s = .next t →
    ∀ p ∈ t.sampleReads, p ∈ s.sampleReads ∨ (p.1 < s.width ∧ p.2 < s.height)

/-- R35, R76, R7: no step writes the grid or the parameters DIM_W and THR_W. -/
def Obligations.StepKeepsGridAndWidths : Prop :=
  ∀ s t : State, step s = .next t → t.grid = s.grid ∧ t.params = s.params

/-- R82: while a pack runs, WIDTH, HEIGHT and THRESHOLD do not change: a step from BUSY that does not reset keeps them. -/
def Obligations.BusyKeepsParameters : Prop :=
  ∀ s t : State, s.opState = .busy → step s = .next t → (∀ s', nextMove s ≠ .reset s') →
    t.width = s.width ∧ t.height = s.height ∧ t.threshold = s.threshold

/-! ### Invariants -/

/-- R50, R51: the three invariants hold at reset. DIM_W, THR_W, the grid and the empty records of that state are the
model's choice (notes/assumptions/1.md, 3.md, 7.md). -/
def Obligations.InvariantsAtReset : Prop :=
  ControlInv State.reset ∧ DataInv State.reset ∧ PortInv State.reset

/-- R51 (a) to (d), R27, R28, R30, R9: every step keeps the control invariant and the ranges of every element. -/
def Obligations.StepKeepsControlInv : Prop :=
  ∀ s t : State, ControlInv s → step s = .next t → ControlInv t

/-- R51 (e) and (f), R212: every step keeps what ACC, OUT and the artifact hold. -/
def Obligations.StepKeepsDataInv : Prop :=
  ∀ s t : State, ControlInv s → DataInv s → step s = .next t → DataInv t

/-- R67, R79: every step keeps the byte-port events a legal sequence that leaves the consumer with exactly OUT. -/
def Obligations.StepKeepsPortInv : Prop :=
  ∀ s t : State, PortInv s → step s = .next t → PortInv t

/-! ### The PACK operation -/

/-- R168, R10, R120, R135: from any state but BUSY, an accepted START with the ports answering ends within
`10 * HEIGHT * GPR + 2` steps in DONE or ERROR, for every grid and threshold, and presents exactly the result of PACK. -/
def Obligations.SequencerComputesPack : Prop :=
  ∀ s : State, EngineAlone s → s.opState ≠ .busy →
    ∃ n t, n ≤ packSteps s.width s.height ∧ runFor n (acceptStart s) = .next t ∧
      (t.opState = .done ∨ t.opState = .error) ∧ observed t = some (pack s.grid s.width s.height s.threshold)

/-- R134, R245: with a legal threshold and a consistent grid the pack is in BUSY for its first
`10 * BYTECOUNT + 1` steps and in DONE after one more, with OUT the closed form of R126 and `K = BYTECOUNT`. -/
def Obligations.SuccessfulPackExactSteps : Prop :=
  ∀ s : State, EngineAlone s → s.opState ≠ .busy → GridConsistent s → 0 ≤ s.threshold → s.threshold ≤ 255 →
    (∀ n < packSteps s.width s.height, ∃ t, runFor n (acceptStart s) = .next t ∧ t.opState = .busy) ∧
    ∃ t, runFor (packSteps s.width s.height) (acceptStart s) = .next t ∧ t.opState = .done ∧ t.err = .none ∧
      t.out = packedBytes s.grid s.width s.height s.threshold ∧ t.k = byteCount s.width s.height

/-- R167: with a legal threshold and a consistent grid the words decoded are exactly the program of the pack. -/
def Obligations.PackRunsItsProgram : Prop :=
  ∀ s : State, EngineAlone s → s.opState ≠ .busy → GridConsistent s → 0 ≤ s.threshold → s.threshold ≤ 255 →
    uopTrace (packSteps s.width s.height) (acceptStart s) = packProgram s.width s.height

/-- R68, R79: a successful pack reads each sample in range exactly once, in raster order, and sends its bytes in order
between OutBegin and OutCommit. -/
def Obligations.PackReadsInRasterOrder : Prop :=
  ∀ s : State, EngineAlone s → s.opState ≠ .busy → GridConsistent s → 0 ≤ s.threshold → s.threshold ≤ 255 →
    ∃ t, runFor (packSteps s.width s.height) (acceptStart s) = .next t ∧
      t.sampleReads = s.sampleReads ++ rasterOrder s.width s.height ∧
      t.events = s.events ++ [.begin] ++ (packedBytes s.grid s.width s.height s.threshold).map .byte ++ [.commit]

/-- R135, R201: an illegal threshold ends the pack in one step in ERROR with PARAM, for every grid, degenerate ones
included: no sample is read, no byte is sent, there is no artifact, and THRESHOLD still holds the value. -/
def Obligations.IllegalThresholdStopsAtOnce : Prop :=
  ∀ s : State, EngineAlone s → s.opState ≠ .busy → s.threshold < 0 ∨ 255 < s.threshold →
    ∃ t, runFor 1 (acceptStart s) = .next t ∧ readReg t .status = 0x07 ∧ t.k = 0 ∧ t.out = [] ∧
      t.artifact = none ∧ t.sampleReads = s.sampleReads ∧ t.threshold = s.threshold ∧ t.events = s.events ++ [.begin, .abort]

/-- R128, R231: a grid with a zero side and a legal threshold packs to nothing in two steps, reading no sample; the
artifact carries the dimensions given. -/
def Obligations.DegenerateGridPacksToNothing : Prop :=
  ∀ s : State, EngineAlone s → s.opState ≠ .busy → s.width = 0 ∨ s.height = 0 → 0 ≤ s.threshold → s.threshold ≤ 255 →
    ∃ t, runFor 2 (acceptStart s) = .next t ∧ readReg t .status = 0x02 ∧ readReg t .outcount = 0 ∧
      readReg t .bytecount = 0 ∧ t.sampleReads = s.sampleReads ∧ t.artifact = some ⟨s.width, s.height, 0, []⟩

/-- R129: the result of a pack depends on nothing but the grid, WIDTH, HEIGHT and THRESHOLD. Two packs that agree on
those, and differ in anything else (earlier packs, ACC, pc, K, how long the ports make the engine wait, what the host reads
and writes meanwhile, how many steps they take), present the same result and the same bytes when they end, the result of
PACK. Left alone with the ports answering, both end after the same number of steps. -/
def Obligations.PackDependsOnInputsOnly : Prop :=
  (∀ (s s' t t' : State) (n n' : Nat), s.opState ≠ .busy → s'.opState ≠ .busy → SameInputs s s' →
    PackEnds n (acceptStart s) t → PackEnds n' (acceptStart s') t' →
    observed t = some (pack s.grid s.width s.height s.threshold) ∧ observed t' = observed t ∧ t'.out = t.out) ∧
  (∀ s s' : State, EngineAlone s → EngineAlone s' → s.opState ≠ .busy → s'.opState ≠ .busy → SameInputs s s' →
    ∃ n t t', PackEnds n (acceptStart s) t ∧ PackEnds n (acceptStart s') t')

/-- R122, R123, R126, R71: bit `7 - b` of the byte of row `y`, group `g` is 1 exactly when column `8*g + b` is below the
width and its sample is at or above the threshold; so padding bits are 0 at every threshold. -/
def Obligations.PackedByteBits : Prop :=
  ∀ (g : Grid) (w : Nat) (t : Int) (y grp : Nat) (b : Fin 8),
    (packedByte g w t y grp).getLsbD (7 - b.val) = (decide (column grp b < w) && pixel g t (column grp b) y)

/-- R125, R66, R127: the packed sequence has `HEIGHT * ceil(WIDTH/8)` elements, and element `y * GPR + g` is the byte of
row `y`, group `g`. -/
def Obligations.PackedSequenceLayout : Prop :=
  ∀ (g : Grid) (w h : Nat) (t : Int), (packedBytes g w h t).length = h * ((w + 7) / 8) ∧
    ∀ y grp, y < h → grp < gpr w → (packedBytes g w h t)[y * gpr w + grp]? = some (packedByte g w t y grp)

/-- R133: PACK8, the eight lanes of a group under the enable mask, is the byte of the closed form. -/
def Obligations.PackEightIsPackedByte : Prop :=
  ∀ (g : Grid) (w : Nat) (t : Int) (y grp : Nat), grp < gpr w → pack8 g w t y grp = packedByte g w t y grp

/-- R133: the ten steps CLR, eight bit slots, EMIT of a group whose enabled samples are all answered append the byte PACK8
gives, and nothing else is appended. -/
def Obligations.TenStepsArePackEight : Prop :=
  ∀ s : State, EngineAlone s → s.opState = .busy → s.slot = .clr → s.g < gpr s.width → 0 ≤ s.threshold →
    s.threshold ≤ 255 → s.width ≤ s.grid.w → s.y < s.grid.h →
    ∃ t, runFor 10 s = .next t ∧ t.opState = .busy ∧
      t.out = s.out ++ [pack8 s.grid s.width s.threshold s.y s.g] ∧ t.k = s.k + 1

/-- R130: raising a legal threshold never turns a 0 bit of any byte into a 1 bit, and the byte count does not depend on
the threshold. -/
def Obligations.RaisingThresholdClearsOnly : Prop :=
  ∀ (g : Grid) (w h : Nat) (t1 t2 : Int), 0 ≤ t1 → t1 ≤ t2 → t2 ≤ 255 →
    (∀ y grp, packedByte g w t2 y grp &&& ~~~ packedByte g w t1 y grp = 0#8) ∧
    (packedBytes g w h t2).length = (packedBytes g w h t1).length

/-- R131: threshold 0 sets every pixel of the grid, threshold 255 exactly those whose sample is 255, and threshold 128
those whose sample is 128 or above. -/
def Obligations.ThresholdExtremes : Prop :=
  ∀ (g : Grid) (x y : Nat) (v : Byte), g.read x y = some v →
    pixel g 0 x y = true ∧ (pixel g 255 x y = true ↔ v = 0xFF#8) ∧ (pixel g 128 x y = true ↔ 128 ≤ v.toNat)
end

