-- ==== Sys2Proof/Laws/State.lean ====
section
/-!
SUPPORT. What each named update of the state does to each field, one lemma per field, so that no later proof unfolds
a record update.
-/
namespace Sys2Proof.Machine

variable (s : State)

@[simp] theorem setPc_params (y g : Nat) (sl : Slot) : (setPc s y g sl).params = s.params := rfl
@[simp] theorem setPc_grid (y g : Nat) (sl : Slot) : (setPc s y g sl).grid = s.grid := rfl
@[simp] theorem setPc_width (y g : Nat) (sl : Slot) : (setPc s y g sl).width = s.width := rfl
@[simp] theorem setPc_height (y g : Nat) (sl : Slot) : (setPc s y g sl).height = s.height := rfl
@[simp] theorem setPc_threshold (y g : Nat) (sl : Slot) : (setPc s y g sl).threshold = s.threshold := rfl
@[simp] theorem setPc_opState (y g : Nat) (sl : Slot) : (setPc s y g sl).opState = s.opState := rfl
@[simp] theorem setPc_err (y g : Nat) (sl : Slot) : (setPc s y g sl).err = s.err := rfl
@[simp] theorem setPc_acc (y g : Nat) (sl : Slot) : (setPc s y g sl).acc = s.acc := rfl
@[simp] theorem setPc_y (y g : Nat) (sl : Slot) : (setPc s y g sl).y = y := rfl
@[simp] theorem setPc_g (y g : Nat) (sl : Slot) : (setPc s y g sl).g = g := rfl
@[simp] theorem setPc_slot (y g : Nat) (sl : Slot) : (setPc s y g sl).slot = sl := rfl
@[simp] theorem setPc_k (y g : Nat) (sl : Slot) : (setPc s y g sl).k = s.k := rfl
@[simp] theorem setPc_out (y g : Nat) (sl : Slot) : (setPc s y g sl).out = s.out := rfl
@[simp] theorem setPc_artifact (y g : Nat) (sl : Slot) : (setPc s y g sl).artifact = s.artifact := rfl
@[simp] theorem setPc_events (y g : Nat) (sl : Slot) : (setPc s y g sl).events = s.events := rfl
@[simp] theorem setPc_sampleReads (y g : Nat) (sl : Slot) : (setPc s y g sl).sampleReads = s.sampleReads := rfl
@[simp] theorem setPc_reads (y g : Nat) (sl : Slot) : (setPc s y g sl).reads = s.reads := rfl
@[simp] theorem setPc_script (y g : Nat) (sl : Slot) : (setPc s y g sl).script = s.script := rfl
@[simp] theorem setPc_pins (y g : Nat) (sl : Slot) : (setPc s y g sl).pins = s.pins := rfl
@[simp] theorem setPc_pinsLater (y g : Nat) (sl : Slot) : (setPc s y g sl).pinsLater = s.pinsLater := rfl

@[simp] theorem logSample_params (x y : Nat) : (logSample s x y).params = s.params := rfl
@[simp] theorem logSample_grid (x y : Nat) : (logSample s x y).grid = s.grid := rfl
@[simp] theorem logSample_width (x y : Nat) : (logSample s x y).width = s.width := rfl
@[simp] theorem logSample_height (x y : Nat) : (logSample s x y).height = s.height := rfl
@[simp] theorem logSample_threshold (x y : Nat) : (logSample s x y).threshold = s.threshold := rfl
@[simp] theorem logSample_opState (x y : Nat) : (logSample s x y).opState = s.opState := rfl
@[simp] theorem logSample_err (x y : Nat) : (logSample s x y).err = s.err := rfl
@[simp] theorem logSample_acc (x y : Nat) : (logSample s x y).acc = s.acc := rfl
@[simp] theorem logSample_y (x y : Nat) : (logSample s x y).y = s.y := rfl
@[simp] theorem logSample_g (x y : Nat) : (logSample s x y).g = s.g := rfl
@[simp] theorem logSample_slot (x y : Nat) : (logSample s x y).slot = s.slot := rfl
@[simp] theorem logSample_k (x y : Nat) : (logSample s x y).k = s.k := rfl
@[simp] theorem logSample_out (x y : Nat) : (logSample s x y).out = s.out := rfl
@[simp] theorem logSample_artifact (x y : Nat) : (logSample s x y).artifact = s.artifact := rfl
@[simp] theorem logSample_events (x y : Nat) : (logSample s x y).events = s.events := rfl
@[simp] theorem logSample_sampleReads (x y : Nat) : (logSample s x y).sampleReads = s.sampleReads ++ [(x, y)] := rfl
@[simp] theorem logSample_reads (x y : Nat) : (logSample s x y).reads = s.reads := rfl
@[simp] theorem logSample_script (x y : Nat) : (logSample s x y).script = s.script := rfl
@[simp] theorem logSample_pins (x y : Nat) : (logSample s x y).pins = s.pins := rfl
@[simp] theorem logSample_pinsLater (x y : Nat) : (logSample s x y).pinsLater = s.pinsLater := rfl

@[simp] theorem sendBegin_params : (sendBegin s).params = s.params := rfl
@[simp] theorem sendBegin_grid : (sendBegin s).grid = s.grid := rfl
@[simp] theorem sendBegin_width : (sendBegin s).width = s.width := rfl
@[simp] theorem sendBegin_height : (sendBegin s).height = s.height := rfl
@[simp] theorem sendBegin_threshold : (sendBegin s).threshold = s.threshold := rfl
@[simp] theorem sendBegin_opState : (sendBegin s).opState = s.opState := rfl
@[simp] theorem sendBegin_err : (sendBegin s).err = s.err := rfl
@[simp] theorem sendBegin_acc : (sendBegin s).acc = s.acc := rfl
@[simp] theorem sendBegin_y : (sendBegin s).y = s.y := rfl
@[simp] theorem sendBegin_g : (sendBegin s).g = s.g := rfl
@[simp] theorem sendBegin_slot : (sendBegin s).slot = s.slot := rfl
@[simp] theorem sendBegin_k : (sendBegin s).k = s.k := rfl
@[simp] theorem sendBegin_out : (sendBegin s).out = [] := rfl
@[simp] theorem sendBegin_artifact : (sendBegin s).artifact = none := rfl
@[simp] theorem sendBegin_events : (sendBegin s).events = s.events ++ [.begin] := rfl
@[simp] theorem sendBegin_sampleReads : (sendBegin s).sampleReads = s.sampleReads := rfl
@[simp] theorem sendBegin_reads : (sendBegin s).reads = s.reads := rfl
@[simp] theorem sendBegin_script : (sendBegin s).script = s.script := rfl
@[simp] theorem sendBegin_pins : (sendBegin s).pins = s.pins := rfl
@[simp] theorem sendBegin_pinsLater : (sendBegin s).pinsLater = s.pinsLater := rfl

@[simp] theorem sendByte_params (v : Byte) : (sendByte s v).params = s.params := rfl
@[simp] theorem sendByte_grid (v : Byte) : (sendByte s v).grid = s.grid := rfl
@[simp] theorem sendByte_width (v : Byte) : (sendByte s v).width = s.width := rfl
@[simp] theorem sendByte_height (v : Byte) : (sendByte s v).height = s.height := rfl
@[simp] theorem sendByte_threshold (v : Byte) : (sendByte s v).threshold = s.threshold := rfl
@[simp] theorem sendByte_opState (v : Byte) : (sendByte s v).opState = s.opState := rfl
@[simp] theorem sendByte_err (v : Byte) : (sendByte s v).err = s.err := rfl
@[simp] theorem sendByte_acc (v : Byte) : (sendByte s v).acc = s.acc := rfl
@[simp] theorem sendByte_y (v : Byte) : (sendByte s v).y = s.y := rfl
@[simp] theorem sendByte_g (v : Byte) : (sendByte s v).g = s.g := rfl
@[simp] theorem sendByte_slot (v : Byte) : (sendByte s v).slot = s.slot := rfl
@[simp] theorem sendByte_k (v : Byte) : (sendByte s v).k = s.k := rfl
@[simp] theorem sendByte_out (v : Byte) : (sendByte s v).out = s.out ++ [v] := rfl
@[simp] theorem sendByte_artifact (v : Byte) : (sendByte s v).artifact = s.artifact := rfl
@[simp] theorem sendByte_events (v : Byte) : (sendByte s v).events = s.events ++ [.byte v] := rfl
@[simp] theorem sendByte_sampleReads (v : Byte) : (sendByte s v).sampleReads = s.sampleReads := rfl
@[simp] theorem sendByte_reads (v : Byte) : (sendByte s v).reads = s.reads := rfl
@[simp] theorem sendByte_script (v : Byte) : (sendByte s v).script = s.script := rfl
@[simp] theorem sendByte_pins (v : Byte) : (sendByte s v).pins = s.pins := rfl
@[simp] theorem sendByte_pinsLater (v : Byte) : (sendByte s v).pinsLater = s.pinsLater := rfl

@[simp] theorem sendCommit_params : (sendCommit s).params = s.params := rfl
@[simp] theorem sendCommit_grid : (sendCommit s).grid = s.grid := rfl
@[simp] theorem sendCommit_width : (sendCommit s).width = s.width := rfl
@[simp] theorem sendCommit_height : (sendCommit s).height = s.height := rfl
@[simp] theorem sendCommit_threshold : (sendCommit s).threshold = s.threshold := rfl
@[simp] theorem sendCommit_opState : (sendCommit s).opState = s.opState := rfl
@[simp] theorem sendCommit_err : (sendCommit s).err = s.err := rfl
@[simp] theorem sendCommit_acc : (sendCommit s).acc = s.acc := rfl
@[simp] theorem sendCommit_y : (sendCommit s).y = s.y := rfl
@[simp] theorem sendCommit_g : (sendCommit s).g = s.g := rfl
@[simp] theorem sendCommit_slot : (sendCommit s).slot = s.slot := rfl
@[simp] theorem sendCommit_k : (sendCommit s).k = s.k := rfl
@[simp] theorem sendCommit_out : (sendCommit s).out = s.out := rfl
@[simp] theorem sendCommit_artifact : (sendCommit s).artifact = some ⟨s.width, s.height, s.k, s.out⟩ := rfl
@[simp] theorem sendCommit_events : (sendCommit s).events = s.events ++ [.commit] := rfl
@[simp] theorem sendCommit_sampleReads : (sendCommit s).sampleReads = s.sampleReads := rfl
@[simp] theorem sendCommit_reads : (sendCommit s).reads = s.reads := rfl
@[simp] theorem sendCommit_script : (sendCommit s).script = s.script := rfl
@[simp] theorem sendCommit_pins : (sendCommit s).pins = s.pins := rfl
@[simp] theorem sendCommit_pinsLater : (sendCommit s).pinsLater = s.pinsLater := rfl

@[simp] theorem sendAbort_params : (sendAbort s).params = s.params := rfl
@[simp] theorem sendAbort_grid : (sendAbort s).grid = s.grid := rfl
@[simp] theorem sendAbort_width : (sendAbort s).width = s.width := rfl
@[simp] theorem sendAbort_height : (sendAbort s).height = s.height := rfl
@[simp] theorem sendAbort_threshold : (sendAbort s).threshold = s.threshold := rfl
@[simp] theorem sendAbort_opState : (sendAbort s).opState = s.opState := rfl
@[simp] theorem sendAbort_err : (sendAbort s).err = s.err := rfl
@[simp] theorem sendAbort_acc : (sendAbort s).acc = s.acc := rfl
@[simp] theorem sendAbort_y : (sendAbort s).y = s.y := rfl
@[simp] theorem sendAbort_g : (sendAbort s).g = s.g := rfl
@[simp] theorem sendAbort_slot : (sendAbort s).slot = s.slot := rfl
@[simp] theorem sendAbort_k : (sendAbort s).k = s.k := rfl
@[simp] theorem sendAbort_out : (sendAbort s).out = [] := rfl
@[simp] theorem sendAbort_artifact : (sendAbort s).artifact = none := rfl
@[simp] theorem sendAbort_events : (sendAbort s).events = s.events ++ [.abort] := rfl
@[simp] theorem sendAbort_sampleReads : (sendAbort s).sampleReads = s.sampleReads := rfl
@[simp] theorem sendAbort_reads : (sendAbort s).reads = s.reads := rfl
@[simp] theorem sendAbort_script : (sendAbort s).script = s.script := rfl
@[simp] theorem sendAbort_pins : (sendAbort s).pins = s.pins := rfl
@[simp] theorem sendAbort_pinsLater : (sendAbort s).pinsLater = s.pinsLater := rfl

@[simp] theorem setAcc_params (v : Byte) : (setAcc s v).params = s.params := rfl
@[simp] theorem setAcc_grid (v : Byte) : (setAcc s v).grid = s.grid := rfl
@[simp] theorem setAcc_width (v : Byte) : (setAcc s v).width = s.width := rfl
@[simp] theorem setAcc_height (v : Byte) : (setAcc s v).height = s.height := rfl
@[simp] theorem setAcc_threshold (v : Byte) : (setAcc s v).threshold = s.threshold := rfl
@[simp] theorem setAcc_opState (v : Byte) : (setAcc s v).opState = s.opState := rfl
@[simp] theorem setAcc_err (v : Byte) : (setAcc s v).err = s.err := rfl
@[simp] theorem setAcc_acc (v : Byte) : (setAcc s v).acc = v := rfl
@[simp] theorem setAcc_y (v : Byte) : (setAcc s v).y = s.y := rfl
@[simp] theorem setAcc_g (v : Byte) : (setAcc s v).g = s.g := rfl
@[simp] theorem setAcc_slot (v : Byte) : (setAcc s v).slot = s.slot := rfl
@[simp] theorem setAcc_k (v : Byte) : (setAcc s v).k = s.k := rfl
@[simp] theorem setAcc_out (v : Byte) : (setAcc s v).out = s.out := rfl
@[simp] theorem setAcc_artifact (v : Byte) : (setAcc s v).artifact = s.artifact := rfl
@[simp] theorem setAcc_events (v : Byte) : (setAcc s v).events = s.events := rfl
@[simp] theorem setAcc_sampleReads (v : Byte) : (setAcc s v).sampleReads = s.sampleReads := rfl
@[simp] theorem setAcc_reads (v : Byte) : (setAcc s v).reads = s.reads := rfl
@[simp] theorem setAcc_script (v : Byte) : (setAcc s v).script = s.script := rfl
@[simp] theorem setAcc_pins (v : Byte) : (setAcc s v).pins = s.pins := rfl
@[simp] theorem setAcc_pinsLater (v : Byte) : (setAcc s v).pinsLater = s.pinsLater := rfl

@[simp] theorem countByte_params : (countByte s).params = s.params := rfl
@[simp] theorem countByte_grid : (countByte s).grid = s.grid := rfl
@[simp] theorem countByte_width : (countByte s).width = s.width := rfl
@[simp] theorem countByte_height : (countByte s).height = s.height := rfl
@[simp] theorem countByte_threshold : (countByte s).threshold = s.threshold := rfl
@[simp] theorem countByte_opState : (countByte s).opState = s.opState := rfl
@[simp] theorem countByte_err : (countByte s).err = s.err := rfl
@[simp] theorem countByte_acc : (countByte s).acc = s.acc := rfl
@[simp] theorem countByte_y : (countByte s).y = s.y := rfl
@[simp] theorem countByte_g : (countByte s).g = s.g := rfl
@[simp] theorem countByte_slot : (countByte s).slot = s.slot := rfl
@[simp] theorem countByte_k : (countByte s).k = s.k + 1 := rfl
@[simp] theorem countByte_out : (countByte s).out = s.out := rfl
@[simp] theorem countByte_artifact : (countByte s).artifact = s.artifact := rfl
@[simp] theorem countByte_events : (countByte s).events = s.events := rfl
@[simp] theorem countByte_sampleReads : (countByte s).sampleReads = s.sampleReads := rfl
@[simp] theorem countByte_reads : (countByte s).reads = s.reads := rfl
@[simp] theorem countByte_script : (countByte s).script = s.script := rfl
@[simp] theorem countByte_pins : (countByte s).pins = s.pins := rfl
@[simp] theorem countByte_pinsLater : (countByte s).pinsLater = s.pinsLater := rfl

@[simp] theorem raiseError_params (e : Err) : (raiseError e s).params = s.params := rfl
@[simp] theorem raiseError_grid (e : Err) : (raiseError e s).grid = s.grid := rfl
@[simp] theorem raiseError_width (e : Err) : (raiseError e s).width = s.width := rfl
@[simp] theorem raiseError_height (e : Err) : (raiseError e s).height = s.height := rfl
@[simp] theorem raiseError_threshold (e : Err) : (raiseError e s).threshold = s.threshold := rfl
@[simp] theorem raiseError_opState (e : Err) : (raiseError e s).opState = .error := rfl
@[simp] theorem raiseError_err (e : Err) : (raiseError e s).err = e := rfl
@[simp] theorem raiseError_acc (e : Err) : (raiseError e s).acc = s.acc := rfl
@[simp] theorem raiseError_y (e : Err) : (raiseError e s).y = s.y := rfl
@[simp] theorem raiseError_g (e : Err) : (raiseError e s).g = s.g := rfl
@[simp] theorem raiseError_slot (e : Err) : (raiseError e s).slot = s.slot := rfl
@[simp] theorem raiseError_k (e : Err) : (raiseError e s).k = 0 := rfl
@[simp] theorem raiseError_out (e : Err) : (raiseError e s).out = [] := rfl
@[simp] theorem raiseError_artifact (e : Err) : (raiseError e s).artifact = none := rfl
@[simp] theorem raiseError_events (e : Err) : (raiseError e s).events = s.events ++ [.abort] := rfl
@[simp] theorem raiseError_sampleReads (e : Err) : (raiseError e s).sampleReads = s.sampleReads := rfl
@[simp] theorem raiseError_reads (e : Err) : (raiseError e s).reads = s.reads := rfl
@[simp] theorem raiseError_script (e : Err) : (raiseError e s).script = s.script := rfl
@[simp] theorem raiseError_pins (e : Err) : (raiseError e s).pins = s.pins := rfl
@[simp] theorem raiseError_pinsLater (e : Err) : (raiseError e s).pinsLater = s.pinsLater := rfl

@[simp] theorem acceptStart_params : (acceptStart s).params = s.params := rfl
@[simp] theorem acceptStart_grid : (acceptStart s).grid = s.grid := rfl
@[simp] theorem acceptStart_width : (acceptStart s).width = s.width := rfl
@[simp] theorem acceptStart_height : (acceptStart s).height = s.height := rfl
@[simp] theorem acceptStart_threshold : (acceptStart s).threshold = s.threshold := rfl
@[simp] theorem acceptStart_opState : (acceptStart s).opState = .busy := rfl
@[simp] theorem acceptStart_err : (acceptStart s).err = .none := rfl
@[simp] theorem acceptStart_acc : (acceptStart s).acc = s.acc := rfl
@[simp] theorem acceptStart_y : (acceptStart s).y = 0 := rfl
@[simp] theorem acceptStart_g : (acceptStart s).g = 0 := rfl
@[simp] theorem acceptStart_slot : (acceptStart s).slot = .chk := rfl
@[simp] theorem acceptStart_k : (acceptStart s).k = 0 := rfl
@[simp] theorem acceptStart_out : (acceptStart s).out = [] := rfl
@[simp] theorem acceptStart_artifact : (acceptStart s).artifact = none := rfl
@[simp] theorem acceptStart_events : (acceptStart s).events = s.events ++ [.begin] := rfl
@[simp] theorem acceptStart_sampleReads : (acceptStart s).sampleReads = s.sampleReads := rfl
@[simp] theorem acceptStart_reads : (acceptStart s).reads = s.reads := rfl
@[simp] theorem acceptStart_script : (acceptStart s).script = s.script := rfl
@[simp] theorem acceptStart_pins : (acceptStart s).pins = s.pins := rfl
@[simp] theorem acceptStart_pinsLater : (acceptStart s).pinsLater = s.pinsLater := rfl

@[simp] theorem resetEngine_params : (resetEngine s).params = s.params := rfl
@[simp] theorem resetEngine_grid : (resetEngine s).grid = s.grid := rfl
@[simp] theorem resetEngine_width : (resetEngine s).width = 0 := rfl
@[simp] theorem resetEngine_height : (resetEngine s).height = 0 := rfl
@[simp] theorem resetEngine_threshold : (resetEngine s).threshold = 128 := rfl
@[simp] theorem resetEngine_opState : (resetEngine s).opState = .idle := rfl
@[simp] theorem resetEngine_err : (resetEngine s).err = .none := rfl
@[simp] theorem resetEngine_acc : (resetEngine s).acc = 0 := rfl
@[simp] theorem resetEngine_y : (resetEngine s).y = 0 := rfl
@[simp] theorem resetEngine_g : (resetEngine s).g = 0 := rfl
@[simp] theorem resetEngine_slot : (resetEngine s).slot = .chk := rfl
@[simp] theorem resetEngine_k : (resetEngine s).k = 0 := rfl
@[simp] theorem resetEngine_out : (resetEngine s).out = [] := rfl
@[simp] theorem resetEngine_artifact : (resetEngine s).artifact = none := rfl
@[simp] theorem resetEngine_events : (resetEngine s).events = if s.opState = .busy ∨ s.opState = .done then s.events ++ [.abort] else s.events := rfl
@[simp] theorem resetEngine_sampleReads : (resetEngine s).sampleReads = s.sampleReads := rfl
@[simp] theorem resetEngine_reads : (resetEngine s).reads = s.reads := rfl
@[simp] theorem resetEngine_script : (resetEngine s).script = s.script := rfl
@[simp] theorem resetEngine_pins : (resetEngine s).pins = s.pins := rfl
@[simp] theorem resetEngine_pinsLater : (resetEngine s).pinsLater = s.pinsLater := rfl

@[simp] theorem setWidth_params (v : Nat) : (setWidth s v).params = s.params := rfl
@[simp] theorem setWidth_grid (v : Nat) : (setWidth s v).grid = s.grid := rfl
@[simp] theorem setWidth_width (v : Nat) : (setWidth s v).width = v := rfl
@[simp] theorem setWidth_height (v : Nat) : (setWidth s v).height = s.height := rfl
@[simp] theorem setWidth_threshold (v : Nat) : (setWidth s v).threshold = s.threshold := rfl
@[simp] theorem setWidth_opState (v : Nat) : (setWidth s v).opState = s.opState := rfl
@[simp] theorem setWidth_err (v : Nat) : (setWidth s v).err = s.err := rfl
@[simp] theorem setWidth_acc (v : Nat) : (setWidth s v).acc = s.acc := rfl
@[simp] theorem setWidth_y (v : Nat) : (setWidth s v).y = s.y := rfl
@[simp] theorem setWidth_g (v : Nat) : (setWidth s v).g = s.g := rfl
@[simp] theorem setWidth_slot (v : Nat) : (setWidth s v).slot = s.slot := rfl
@[simp] theorem setWidth_k (v : Nat) : (setWidth s v).k = s.k := rfl
@[simp] theorem setWidth_out (v : Nat) : (setWidth s v).out = s.out := rfl
@[simp] theorem setWidth_artifact (v : Nat) : (setWidth s v).artifact = s.artifact := rfl
@[simp] theorem setWidth_events (v : Nat) : (setWidth s v).events = s.events := rfl
@[simp] theorem setWidth_sampleReads (v : Nat) : (setWidth s v).sampleReads = s.sampleReads := rfl
@[simp] theorem setWidth_reads (v : Nat) : (setWidth s v).reads = s.reads := rfl
@[simp] theorem setWidth_script (v : Nat) : (setWidth s v).script = s.script := rfl
@[simp] theorem setWidth_pins (v : Nat) : (setWidth s v).pins = s.pins := rfl
@[simp] theorem setWidth_pinsLater (v : Nat) : (setWidth s v).pinsLater = s.pinsLater := rfl

@[simp] theorem setHeight_params (v : Nat) : (setHeight s v).params = s.params := rfl
@[simp] theorem setHeight_grid (v : Nat) : (setHeight s v).grid = s.grid := rfl
@[simp] theorem setHeight_width (v : Nat) : (setHeight s v).width = s.width := rfl
@[simp] theorem setHeight_height (v : Nat) : (setHeight s v).height = v := rfl
@[simp] theorem setHeight_threshold (v : Nat) : (setHeight s v).threshold = s.threshold := rfl
@[simp] theorem setHeight_opState (v : Nat) : (setHeight s v).opState = s.opState := rfl
@[simp] theorem setHeight_err (v : Nat) : (setHeight s v).err = s.err := rfl
@[simp] theorem setHeight_acc (v : Nat) : (setHeight s v).acc = s.acc := rfl
@[simp] theorem setHeight_y (v : Nat) : (setHeight s v).y = s.y := rfl
@[simp] theorem setHeight_g (v : Nat) : (setHeight s v).g = s.g := rfl
@[simp] theorem setHeight_slot (v : Nat) : (setHeight s v).slot = s.slot := rfl
@[simp] theorem setHeight_k (v : Nat) : (setHeight s v).k = s.k := rfl
@[simp] theorem setHeight_out (v : Nat) : (setHeight s v).out = s.out := rfl
@[simp] theorem setHeight_artifact (v : Nat) : (setHeight s v).artifact = s.artifact := rfl
@[simp] theorem setHeight_events (v : Nat) : (setHeight s v).events = s.events := rfl
@[simp] theorem setHeight_sampleReads (v : Nat) : (setHeight s v).sampleReads = s.sampleReads := rfl
@[simp] theorem setHeight_reads (v : Nat) : (setHeight s v).reads = s.reads := rfl
@[simp] theorem setHeight_script (v : Nat) : (setHeight s v).script = s.script := rfl
@[simp] theorem setHeight_pins (v : Nat) : (setHeight s v).pins = s.pins := rfl
@[simp] theorem setHeight_pinsLater (v : Nat) : (setHeight s v).pinsLater = s.pinsLater := rfl

@[simp] theorem setThreshold_params (t : Int) : (setThreshold s t).params = s.params := rfl
@[simp] theorem setThreshold_grid (t : Int) : (setThreshold s t).grid = s.grid := rfl
@[simp] theorem setThreshold_width (t : Int) : (setThreshold s t).width = s.width := rfl
@[simp] theorem setThreshold_height (t : Int) : (setThreshold s t).height = s.height := rfl
@[simp] theorem setThreshold_threshold (t : Int) : (setThreshold s t).threshold = t := rfl
@[simp] theorem setThreshold_opState (t : Int) : (setThreshold s t).opState = s.opState := rfl
@[simp] theorem setThreshold_err (t : Int) : (setThreshold s t).err = s.err := rfl
@[simp] theorem setThreshold_acc (t : Int) : (setThreshold s t).acc = s.acc := rfl
@[simp] theorem setThreshold_y (t : Int) : (setThreshold s t).y = s.y := rfl
@[simp] theorem setThreshold_g (t : Int) : (setThreshold s t).g = s.g := rfl
@[simp] theorem setThreshold_slot (t : Int) : (setThreshold s t).slot = s.slot := rfl
@[simp] theorem setThreshold_k (t : Int) : (setThreshold s t).k = s.k := rfl
@[simp] theorem setThreshold_out (t : Int) : (setThreshold s t).out = s.out := rfl
@[simp] theorem setThreshold_artifact (t : Int) : (setThreshold s t).artifact = s.artifact := rfl
@[simp] theorem setThreshold_events (t : Int) : (setThreshold s t).events = s.events := rfl
@[simp] theorem setThreshold_sampleReads (t : Int) : (setThreshold s t).sampleReads = s.sampleReads := rfl
@[simp] theorem setThreshold_reads (t : Int) : (setThreshold s t).reads = s.reads := rfl
@[simp] theorem setThreshold_script (t : Int) : (setThreshold s t).script = s.script := rfl
@[simp] theorem setThreshold_pins (t : Int) : (setThreshold s t).pins = s.pins := rfl
@[simp] theorem setThreshold_pinsLater (t : Int) : (setThreshold s t).pinsLater = s.pinsLater := rfl

@[simp] theorem logRead_params (r : Reg) (v : Nat) : (logRead s r v).params = s.params := rfl
@[simp] theorem logRead_grid (r : Reg) (v : Nat) : (logRead s r v).grid = s.grid := rfl
@[simp] theorem logRead_width (r : Reg) (v : Nat) : (logRead s r v).width = s.width := rfl
@[simp] theorem logRead_height (r : Reg) (v : Nat) : (logRead s r v).height = s.height := rfl
@[simp] theorem logRead_threshold (r : Reg) (v : Nat) : (logRead s r v).threshold = s.threshold := rfl
@[simp] theorem logRead_opState (r : Reg) (v : Nat) : (logRead s r v).opState = s.opState := rfl
@[simp] theorem logRead_err (r : Reg) (v : Nat) : (logRead s r v).err = s.err := rfl
@[simp] theorem logRead_acc (r : Reg) (v : Nat) : (logRead s r v).acc = s.acc := rfl
@[simp] theorem logRead_y (r : Reg) (v : Nat) : (logRead s r v).y = s.y := rfl
@[simp] theorem logRead_g (r : Reg) (v : Nat) : (logRead s r v).g = s.g := rfl
@[simp] theorem logRead_slot (r : Reg) (v : Nat) : (logRead s r v).slot = s.slot := rfl
@[simp] theorem logRead_k (r : Reg) (v : Nat) : (logRead s r v).k = s.k := rfl
@[simp] theorem logRead_out (r : Reg) (v : Nat) : (logRead s r v).out = s.out := rfl
@[simp] theorem logRead_artifact (r : Reg) (v : Nat) : (logRead s r v).artifact = s.artifact := rfl
@[simp] theorem logRead_events (r : Reg) (v : Nat) : (logRead s r v).events = s.events := rfl
@[simp] theorem logRead_sampleReads (r : Reg) (v : Nat) : (logRead s r v).sampleReads = s.sampleReads := rfl
@[simp] theorem logRead_reads (r : Reg) (v : Nat) : (logRead s r v).reads = s.reads ++ [⟨r, v⟩] := rfl
@[simp] theorem logRead_script (r : Reg) (v : Nat) : (logRead s r v).script = s.script := rfl
@[simp] theorem logRead_pins (r : Reg) (v : Nat) : (logRead s r v).pins = s.pins := rfl
@[simp] theorem logRead_pinsLater (r : Reg) (v : Nat) : (logRead s r v).pinsLater = s.pinsLater := rfl

@[simp] theorem popScript_params : (popScript s).params = s.params := rfl
@[simp] theorem popScript_grid : (popScript s).grid = s.grid := rfl
@[simp] theorem popScript_width : (popScript s).width = s.width := rfl
@[simp] theorem popScript_height : (popScript s).height = s.height := rfl
@[simp] theorem popScript_threshold : (popScript s).threshold = s.threshold := rfl
@[simp] theorem popScript_opState : (popScript s).opState = s.opState := rfl
@[simp] theorem popScript_err : (popScript s).err = s.err := rfl
@[simp] theorem popScript_acc : (popScript s).acc = s.acc := rfl
@[simp] theorem popScript_y : (popScript s).y = s.y := rfl
@[simp] theorem popScript_g : (popScript s).g = s.g := rfl
@[simp] theorem popScript_slot : (popScript s).slot = s.slot := rfl
@[simp] theorem popScript_k : (popScript s).k = s.k := rfl
@[simp] theorem popScript_out : (popScript s).out = s.out := rfl
@[simp] theorem popScript_artifact : (popScript s).artifact = s.artifact := rfl
@[simp] theorem popScript_events : (popScript s).events = s.events := rfl
@[simp] theorem popScript_sampleReads : (popScript s).sampleReads = s.sampleReads := rfl
@[simp] theorem popScript_reads : (popScript s).reads = s.reads := rfl
@[simp] theorem popScript_script : (popScript s).script = s.script.tail := rfl
@[simp] theorem popScript_pins : (popScript s).pins = s.pins := rfl
@[simp] theorem popScript_pinsLater : (popScript s).pinsLater = s.pinsLater := rfl

@[simp] theorem tick_params : (tick s).params = s.params := rfl
@[simp] theorem tick_grid : (tick s).grid = s.grid := rfl
@[simp] theorem tick_width : (tick s).width = s.width := rfl
@[simp] theorem tick_height : (tick s).height = s.height := rfl
@[simp] theorem tick_threshold : (tick s).threshold = s.threshold := rfl
@[simp] theorem tick_opState : (tick s).opState = s.opState := rfl
@[simp] theorem tick_err : (tick s).err = s.err := rfl
@[simp] theorem tick_acc : (tick s).acc = s.acc := rfl
@[simp] theorem tick_y : (tick s).y = s.y := rfl
@[simp] theorem tick_g : (tick s).g = s.g := rfl
@[simp] theorem tick_slot : (tick s).slot = s.slot := rfl
@[simp] theorem tick_k : (tick s).k = s.k := rfl
@[simp] theorem tick_out : (tick s).out = s.out := rfl
@[simp] theorem tick_artifact : (tick s).artifact = s.artifact := rfl
@[simp] theorem tick_events : (tick s).events = s.events := rfl
@[simp] theorem tick_sampleReads : (tick s).sampleReads = s.sampleReads := rfl
@[simp] theorem tick_reads : (tick s).reads = s.reads := rfl
@[simp] theorem tick_script : (tick s).script = s.script := rfl
@[simp] theorem tick_pins : (tick s).pins = s.pinsLater.headD s.pins := rfl
@[simp] theorem tick_pinsLater : (tick s).pinsLater = s.pinsLater.tail := rfl

end Sys2Proof.Machine
end

