-- ==== Sys2Proof/Laws/Memory.lean ====
section
/-!
SUPPORT. Memory and the grid: a read after a write, the canonical form kept by every memory operation, equal contents are
equal data.
-/
namespace Sys2Proof.Machine

/-- Every address of `m` lies above `a`. -/
def Memory.above (a : Nat) (m : Memory) : Prop := ∀ c ∈ m, a < c.1

theorem Memory.wf_cons (c : Host.Cell) (m : Memory) :
    Memory.wf (c :: m) = true ↔ c.2 ≠ Memory.unlisted ∧ Memory.above c.1 m ∧ Memory.wf m = true := by
  simp [Memory.wf, Memory.above, and_assoc]

theorem Memory.read_above {a : Nat} {m : Memory} (h : Memory.above a m) : ∀ b ≤ a, Memory.read m b = Memory.unlisted := by
  induction m with
  | nil => intros; rfl
  | cons c m ih =>
    intro b hb
    have hc : a < c.1 := h c (by simp)
    rw [Memory.read, if_neg (by omega)]
    exact ih (fun d hd => h d (by simp [hd])) b hb

theorem Memory.above_write {a b : Nat} {m : Memory} (v : Byte) (h : Memory.above b m) (hab : b < a) :
    Memory.above b (Memory.write m a v) := by
  induction m with
  | nil => intro c hc; simp only [Memory.write] at hc; split at hc <;> simp_all
  | cons d m ih =>
    have hd : b < d.1 := h d (by simp)
    have hm : Memory.above b m := fun c hc => h c (by simp [hc])
    intro c hc
    simp only [Memory.write] at hc
    split at hc
    · split at hc <;> simp only [List.mem_cons] at hc
      · rcases hc with rfl | hc
        exacts [hd, hm c hc]
      · rcases hc with rfl | rfl | hc
        exacts [hab, hd, hm c hc]
    · split at hc
      · split at hc
        · exact hm c hc
        · rcases List.mem_cons.mp hc with rfl | hc
          exacts [hab, hm c hc]
      · rcases List.mem_cons.mp hc with rfl | hc
        exacts [hd, ih hm c hc]

/-- A write keeps the canonical form. -/
theorem Memory.write_wf {m : Memory} (h : Memory.wf m = true) (a : Nat) (v : Byte) :
    Memory.wf (Memory.write m a v) = true := by
  induction m with
  | nil =>
    simp only [Memory.write]
    split
    · rfl
    · simp [Memory.wf, *]
  | cons c m ih =>
    obtain ⟨hv, hab, hm⟩ := (Memory.wf_cons c m).mp h
    simp only [Memory.write]
    split
    · split
      · exact h
      · refine (Memory.wf_cons _ _).mpr ⟨‹_›, ?_, h⟩
        intro d hd
        rcases List.mem_cons.mp hd with rfl | hd
        · assumption
        · have := hab d hd
          simp only; omega
    · split
      · subst a
        split
        · exact hm
        · exact (Memory.wf_cons _ _).mpr ⟨‹_›, hab, hm⟩
      · exact (Memory.wf_cons _ _).mpr ⟨hv, Memory.above_write v hab (by omega), ih hm⟩

/-- A read after a write: the value written at its address, the old value everywhere else. -/
theorem Memory.read_write {m : Memory} (h : Memory.wf m = true) (a b : Nat) (v : Byte) :
    Memory.read (Memory.write m a v) b = if b = a then v else Memory.read m b := by
  induction m with
  | nil =>
    simp only [Memory.write]
    split
    · split <;> simp_all [Memory.read]
    · simp only [Memory.read, eq_comm]
  | cons c m ih =>
    obtain ⟨hv, hab, hm⟩ := (Memory.wf_cons c m).mp h
    have ih := ih hm
    simp only [Memory.write]
    split
    · split
      · have : Memory.read (c :: m) a = Memory.unlisted := by
          apply Memory.read_above (a := a) _ a le_rfl
          intro d hd
          rcases List.mem_cons.mp hd with rfl | hd
          · assumption
          · have := hab d hd; omega
        split <;> simp_all
      · simp only [Memory.read, eq_comm]
    · split
      · subst a
        have hno : Memory.read m c.1 = Memory.unlisted := Memory.read_above hab c.1 le_rfl
        split <;> simp only [Memory.read, eq_comm] <;> split <;> simp_all
      · simp only [Memory.read, ih]
        split <;> split <;> simp_all

/-- Writing a run of bytes keeps the canonical form. -/
theorem Memory.writeList_wf {m : Memory} (h : Memory.wf m = true) (a : Nat) (vs : List Byte) :
    Memory.wf (Memory.writeList m a vs) = true := by
  induction vs generalizing m a with
  | nil => exact h
  | cons v vs ih => exact ih (Memory.write_wf h a v) (a + 1)

/-- Two memories in canonical form that read alike are the same data. -/
theorem Memory.ext_of_wf {m m' : Memory} (h : Memory.wf m = true) (h' : Memory.wf m' = true)
    (heq : ∀ a, Memory.read m a = Memory.read m' a) : m = m' := by
  induction m generalizing m' with
  | nil =>
    cases m' with
    | nil => rfl
    | cons c m' =>
      have := heq c.1
      have hc := ((Memory.wf_cons c m').mp h').1
      simp [Memory.read] at this
      exact absurd this.symm hc
  | cons c m ih =>
    obtain ⟨hv, hab, hm⟩ := (Memory.wf_cons c m).mp h
    cases m' with
    | nil =>
      have := heq c.1
      simp [Memory.read] at this
      exact absurd this hv
    | cons d m' =>
      obtain ⟨hv', hab', hm'⟩ := (Memory.wf_cons d m').mp h'
      have key : c.1 = d.1 := by
        rcases lt_trichotomy c.1 d.1 with hlt | he | hgt
        · have h1 := heq c.1
          rw [Memory.read, if_pos rfl, Memory.read, if_neg (by omega),
            Memory.read_above hab' _ (le_of_lt hlt)] at h1
          exact absurd h1 hv
        · exact he
        · have h1 := heq d.1
          rw [Memory.read, if_neg (by omega), Memory.read_above hab _ (le_of_lt hgt), Memory.read, if_pos rfl] at h1
          exact absurd h1.symm hv'
      have hval : c.2 = d.2 := by
        have h1 := heq c.1
        rwa [Memory.read, if_pos rfl, Memory.read, if_pos key.symm] at h1
      have hcd : c = d := Prod.ext key hval
      subst hcd
      congr 1
      refine ih hm hm' (fun a => ?_)
      by_cases ha : c.1 = a
      · rw [← ha, Memory.read_above hab _ le_rfl, Memory.read_above hab' _ le_rfl]
      · have h1 := heq a
        rwa [Memory.read, if_neg ha, Memory.read, if_neg ha] at h1

/-- A grid built from rows keeps its samples in canonical form. -/
theorem Grid.ofRows_cells_wf (w : Nat) (rows : List (List Byte)) : Memory.wf (Grid.ofRows w rows).cells = true :=
  Memory.writeList_wf rfl 0 rows.flatten

/-- The provider answers exactly inside its true rectangle. -/
theorem Grid.read_eq_none (g : Grid) (x y : Nat) : g.read x y = none ↔ ¬ (x < g.w ∧ y < g.h) := by
  simp [Grid.read]

theorem Grid.read_eq_some (g : Grid) (x y : Nat) (v : Byte) :
    g.read x y = some v ↔ (x < g.w ∧ y < g.h) ∧ Memory.read g.cells (g.addr x y) = v := by
  simp only [Grid.read]
  split <;> simp [*]

/-- Everything the sample port can answer (R62, R72). -/
theorem samplePort_cases (s : State) (x y : Nat) :
    (samplePort s x y = .waiting ∧ s.pins.sampleReady = false) ∨
    (samplePort s x y = .fault ∧ s.pins.sampleReady = true ∧ s.grid.read x y = none) ∨
    (∃ v, samplePort s x y = .ok v ∧ s.pins.sampleReady = true ∧ s.grid.read x y = some v) := by
  unfold samplePort
  cases h : s.pins.sampleReady with
  | false => simp
  | true => cases hg : s.grid.read x y <;> simp

end Sys2Proof.Machine
end

