-- ==== Sys2Proof/Laws/Operands.lean ====
section
/-!
SUPPORT. The operand forms and comparisons in plain arithmetic: one lemma says what each is, so that no later proof
unfolds a shift or a two's-complement conversion.
-/
namespace Sys2Proof.Machine

/-- The mask of bit position `b` is the number `2^(7-b)`. -/
theorem accMask_toNat (b : Fin 8) : (accMask b).toNat = 2 ^ (7 - b.val) := by
  revert b; decide

/-- The mask of bit position `b` has bit `7 - b` and no other. -/
theorem accMask_getLsbD (b : Fin 8) (j : Nat) : (accMask b).getLsbD j = decide (j = 7 - b.val) := by
  by_cases hj : j < 8
  · revert b
    interval_cases j <;> decide
  · rw [BitVec.getLsbD_of_ge _ _ (by omega)]
    simp only [Bool.false_eq, decide_eq_false_iff_not]
    omega

theorem thresholdLegal_iff (t : Int) : thresholdLegal t = true ↔ 0 ≤ t ∧ t ≤ 255 := by
  simp [thresholdLegal]

/-- The threshold operand is THRESHOLD modulo 256 (R105). -/
theorem thresholdOperand_toNat (t : Int) : ((thresholdOperand t).toNat : Int) = t % 256 := by
  simp [thresholdOperand, BitVec.toNat_ofInt, Int.emod_nonneg]

/-- The test of TST compares the sample with the low 8 bits of THRESHOLD. -/
theorem sampleSet_iff (t : Int) (v : Byte) : sampleSet t v = true ↔ t % 256 ≤ (v.toNat : Int) := by
  rw [← thresholdOperand_toNat]
  simp [sampleSet, BitVec.le_def]

/-- With a legal threshold the test of TST is the threshold policy (R105, R121). -/
theorem sampleSet_legal {t : Int} (h : thresholdLegal t = true) (v : Byte) :
    sampleSet t v = decide (t ≤ (v.toNat : Int)) := by
  obtain ⟨h0, h1⟩ := (thresholdLegal_iff t).mp h
  have : t % 256 = t := Int.emod_eq_of_lt h0 (by omega)
  rw [Bool.eq_iff_iff, sampleSet_iff, this, decide_eq_true_iff]

/-- A data phase that fits its register is taken whole. -/
theorem dataPhase_eq {p : Params} {r : Reg} {v : Nat} (h : v < 2 ^ r.dataWidth p) : dataPhase p r v = v :=
  Nat.mod_eq_of_lt h

theorem thresholdToBits_eq (p : Params) (t : Int) : thresholdToBits p t = (t % 2 ^ p.thrW).toNat := by
  simp [thresholdToBits, BitVec.toNat_ofInt]

/-- The signed value of a word that fits THR_W bits. -/
theorem thresholdOfBits_eq {p : Params} (hp : p.legal = true) {v : Nat} (hv : v < 2 ^ p.thrW) :
    thresholdOfBits p v = if v < 2 ^ (p.thrW - 1) then (v : Int) else (v : Int) - 2 ^ p.thrW := by
  have hw : 10 ≤ p.thrW := by simp [Params.legal] at hp; exact hp.2
  have h2 : 2 ^ p.thrW = 2 * 2 ^ (p.thrW - 1) := by rw [← pow_succ']; congr 1; omega
  rw [thresholdOfBits, BitVec.toInt_eq_toNat_cond, BitVec.toNat_ofNat, Nat.mod_eq_of_lt hv]
  by_cases h : v < 2 ^ (p.thrW - 1)
  · rw [if_pos (by omega), if_pos h]
  · rw [if_neg (by omega), if_neg h]; push_cast; rfl

/-- The signed value of any word lies in the range of THRESHOLD. -/
theorem thresholdOfBits_range {p : Params} (v : Nat) :
    -(2 ^ (p.thrW - 1) : Int) ≤ thresholdOfBits p v ∧ thresholdOfBits p v < (2 ^ (p.thrW - 1) : Int) := by
  have h1 := BitVec.le_toInt (BitVec.ofNat p.thrW v)
  have h2 := BitVec.toInt_lt (x := BitVec.ofNat p.thrW v)
  exact ⟨h1, h2⟩

/-- The word of a bit slot is the encoder's word for TST or PAD (R101, R160). -/
theorem fetch_bit (w g : Nat) (b : Fin 8) :
    fetch w g (.bit b) = if column g b < w then uWord 3 b else uWord 4 b := by
  simp only [fetch]
  split <;> (clear * -; revert b; decide)

theorem gpr_eq_zero (w : Nat) : gpr w = 0 ↔ w = 0 := by unfold gpr; omega

/-- A group exists only if its first column is below the width (R144). -/
theorem column_lt_of_group {w g : Nat} (h : g < gpr w) : 8 * g < w := by unfold gpr at h; omega

/-- Every group but the last is full (R133). -/
theorem column_lt_of_not_last {w g : Nat} (h : g + 1 < gpr w) (b : Fin 8) : column g b < w := by
  unfold gpr at h; unfold column; omega

/-- A byte's partial sum leaves the lower bit positions free. -/
theorem partialByte_dvd (gr : Grid) (w : Nat) (t : Int) (y grp : Nat) : ∀ n ≤ 8, 2 ^ (8 - n) ∣ partialByte gr w t y grp n
  | 0, _ => by simp [partialByte]
  | n + 1, h => by
    rw [partialByte]
    refine Nat.dvd_add ((Nat.pow_dvd_pow 2 (by omega)).trans (partialByte_dvd gr w t y grp n (by omega))) ?_
    unfold bitWeight
    split
    · exact Nat.pow_dvd_pow 2 (by omega)
    · exact Nat.dvd_zero _

/-- A byte's partial sum stays below the next free bit position's overflow. -/
theorem partialByte_le (gr : Grid) (w : Nat) (t : Int) (y grp : Nat) :
    ∀ n ≤ 8, partialByte gr w t y grp n + 2 ^ (8 - n) ≤ 256
  | 0, _ => by simp [partialByte]
  | n + 1, h => by
    have ih := partialByte_le gr w t y grp n (by omega)
    have h2 : 2 ^ (8 - n) = 2 * 2 ^ (7 - n) := by rw [← pow_succ']; congr 1; omega
    have h3 : 8 - (n + 1) = 7 - n := by omega
    rw [partialByte, h3]
    unfold bitWeight
    split <;> omega

/-- Setting the bit of position `b` in a byte whose lower positions are free adds its weight. -/
theorem or_accMask_toNat (a : Byte) (b : Fin 8) (h : 2 ^ (8 - b.val) ∣ a.toNat) :
    (a ||| accMask b).toNat = a.toNat + 2 ^ (7 - b.val) := by
  obtain ⟨k, hk⟩ := h
  rw [BitVec.toNat_or, accMask_toNat, hk]
  have h2 : 2 ^ (8 - b.val) = 2 * 2 ^ (7 - b.val) := by rw [← pow_succ']; congr 1; omega
  exact (Nat.two_pow_add_eq_or_of_lt (i := 8 - b.val) (b := 2 ^ (7 - b.val))
    (Nat.pow_lt_pow_right (by omega) (by omega)) k).symm

/-- A threshold in the register's range comes back from its THR_W bits (R93). -/
theorem thresholdOfBits_toBits {p : Params} (hp : p.legal = true) {t : Int} (h0 : -(2 ^ (p.thrW - 1) : Int) ≤ t)
    (h1 : t < (2 ^ (p.thrW - 1) : Int)) : thresholdOfBits p (thresholdToBits p t) = t := by
  have hw : 10 ≤ p.thrW := by simp [Params.legal] at hp; exact hp.2
  have h2 : (2 : Int) ^ p.thrW = 2 * 2 ^ (p.thrW - 1) := by rw [← pow_succ']; congr 1; omega
  simp only [thresholdOfBits, thresholdToBits, BitVec.ofNat_toNat, BitVec.setWidth_eq, BitVec.toInt_ofInt]
  rw [Int.bmod_eq_of_le] <;> push_cast <;> rw [h2] <;> omega

end Sys2Proof.Machine
end

