-- ==== Sys2Proof/Laws/PerInstr.lean ====
section
/-!
SUPPORT. Per-instruction family `EncodesItsRow`: the encoded word of an instruction belongs to the row of
spec/opcode_table.json that carries its mnemonic.
-/
namespace Sys2Proof.Laws.EncodesItsRow

/-- The word of `i` has the fixed bits of the table row of `i`, under its own format. -/
def Statement (i : Instr) : Prop := (rowOfCode (encode i)).map Row.mnemonic = some (mnemonic i)

theorem chk : Statement .chk := by unfold Statement; decide

theorem clr : Statement .clr := by unfold Statement; decide

theorem tst (b : Fin 8) : Statement (.tst b) := by revert b; unfold Statement; decide

theorem pad (b : Fin 8) : Statement (.pad b) := by revert b; unfold Statement; decide

theorem emit : Statement .emit := by unfold Statement; decide

theorem fin : Statement .fin := by unfold Statement; decide

theorem rd (r : Reg) : Statement (.rd r) := by cases r <;> rfl

theorem wr (r : Reg) (v : Nat) : Statement (.wr r v) := by cases r <;> rfl

theorem start (rsv : BitVec 7) : Statement (.start rsv) := by
  have h : ∀ x : BitVec 7, (rowOf rowsC (x ++ 1#1).toNat).map Row.mnemonic = some "START" := by decide
  exact h rsv

theorem nopc (rsv : BitVec 7) : Statement (.nopc rsv) := by
  have h : ∀ x : BitVec 7, (rowOf rowsC (x ++ 0#1).toNat).map Row.mnemonic = some "NOPC" := by decide
  exact h rsv

end Sys2Proof.Laws.EncodesItsRow
end

