-- ==== Sys2Proof/Laws/Step.lean ====
section
/-!
SUPPORT. Everything a step can do: one lemma per shared operation of the step boundary, so that a proof over `step` is a
short case analysis and never unfolds it.
-/
namespace Sys2Proof.Machine

/-- Everything that can happen at a step boundary. -/
theorem nextMove_cases (s : State) :
    (nextMove s = .reset s ∧ s.pins.reset = true) ∨
    (nextMove s = .quiet ∧ s.pins.reset = false ∧ hostTurn s = false ∧ s.opState ≠ .busy) ∨
    (nextMove s = .run (.u (fetchWord s)) s ∧ s.pins.reset = false ∧ hostTurn s = false ∧ s.opState = .busy) ∨
    (s.pins.reset = false ∧ hostTurn s = true ∧ nextMove s = hostMove s ∧ s.script ≠ []) := by
  unfold nextMove
  cases hr : s.pins.reset with
  | true => simp
  | false =>
    cases ht : hostTurn s with
    | false => by_cases hb : s.opState = .busy <;> simp [hb]
    | true =>
      have : s.script ≠ [] := by
        intro h
        simp [hostTurn, h] at ht
      simp [this]

/-- Everything the host's next script line can be. -/
theorem hostMove_cases (s : State) (h : s.script ≠ []) :
    (∃ addr data, s.script.head? = some (.transfer addr data) ∧ hostMove s = .run (.h addr data) (popScript s)) ∨
    (∃ w, s.script.head? = some (.command w) ∧ hostMove s = .run (.c w) (popScript s)) ∨
    (s.script.head? = some .reset ∧ hostMove s = .reset (popScript s)) ∨
    (s.script.head? = some .wait ∧
      hostMove s = .run (.h 0b0001#4 0) (if s.opState = .busy then s else popScript s)) := by
  unfold hostMove
  match hs : s.script with
  | [] => exact absurd hs h
  | .transfer a d :: _ => simp
  | .command w :: _ => simp
  | .reset :: _ => simp
  | .wait :: _ => simp

/-- Every meaning answers a next state, in every state. -/
theorem exec_next (i : Instr) (s : State) : ∃ t, exec i s = .next t := by
  cases i <;> exact ⟨_, rfl⟩

/-- A step that answers `t` is a reset, a rest, or the execution of one decoded word followed by `tick`. -/
theorem step_cases {s t : State} (h : step s = .next t) :
    (∃ s', nextMove s = .reset s' ∧ t = tick (resetEngine s')) ∨
    (nextMove s = .quiet ∧ t = tick s) ∨
    (∃ c s' i u, nextMove s = .run c s' ∧ decode c = .ok i ∧ exec i s' = .next u ∧ t = tick u) := by
  unfold step at h
  cases hm : nextMove s with
  | reset s' => rw [hm] at h; cases h; exact .inl ⟨s', rfl, rfl⟩
  | quiet => rw [hm] at h; cases h; exact .inr (.inl ⟨rfl, rfl⟩)
  | run c s' =>
    cases hd : decode c with
    | error e => simp only [hm, hd] at h; cases h
    | ok i =>
      obtain ⟨u, he⟩ := exec_next i s'
      simp only [hm, hd, he, afterExec] at h
      cases h
      exact .inr (.inr ⟨c, s', i, u, rfl, hd, he, rfl⟩)

/-- One lemma to run a step forwards: the word of the move decodes, the instruction answers `u`. -/
theorem step_of_run {s s' u : State} {c : Code} {i : Instr} (hm : nextMove s = .run c s') (hd : decode c = .ok i)
    (he : exec i s' = .next u) : step s = .next (tick u) := by
  simp only [step, hm, hd, he, afterExec]

theorem step_of_reset {s s' : State} (hm : nextMove s = .reset s') : step s = .next (tick (resetEngine s')) := by
  simp only [step, hm]

theorem step_of_quiet {s : State} (hm : nextMove s = .quiet) : step s = .next (tick s) := by
  simp only [step, hm]

/-! ### What each instruction does, as one equation of its meaning -/

theorem exec_chk (s : State) : exec .chk s = .next (if s.opState = .busy then
    (if thresholdLegal s.threshold then setPc s 0 0 (firstSlot s.width s.height) else raiseError .param s) else s) := rfl

theorem exec_clr (s : State) :
    exec .clr s = .next (if s.opState = .busy then setPc (setAcc s 0) s.y s.g (.bit 0) else s) := rfl

theorem exec_pad (b : Fin 8) (s : State) :
    exec (.pad b) s = .next (if s.opState = .busy then setPc s s.y s.g (nextSlot b) else s) := rfl

theorem exec_emit (s : State) : exec .emit s = .next (if s.opState = .busy then
    (if s.pins.byteReady then nextGroup (countByte (sendByte s s.acc)) else s) else s) := rfl

theorem exec_fin (s : State) :
    exec .fin s = .next (if s.opState = .busy then sendCommit { s with opState := .done } else s) := rfl

/-- TST, by the answer of the sample port. -/
theorem exec_tst (b : Fin 8) (s : State) : exec (.tst b) s = .next (if s.opState = .busy then
    (match samplePort s (column s.g b) s.y with
      | .waiting => s
      | .fault => raiseError .grid (logSample s (column s.g b) s.y)
      | .ok v => setPc (testSample b v (logSample s (column s.g b) s.y)) s.y s.g (nextSlot b)) else s) := rfl

/-- The accumulator write of TST as one update. -/
theorem testSample_eq (b : Fin 8) (v : Byte) (s : State) :
    testSample b v s = setAcc s (if sampleSet s.threshold v then s.acc ||| accMask b else s.acc) := by
  unfold testSample
  split <;> rfl

theorem exec_rd (r : Reg) (s : State) : exec (.rd r) s = .next (logRead s r (readReg s r)) := rfl

theorem exec_wr (r : Reg) (v : Nat) (s : State) :
    exec (.wr r v) s = .next (if s.opState = .busy then s else writeReg s r v) := rfl

theorem exec_start (rsv : BitVec 7) (s : State) :
    exec (.start rsv) s = .next (if s.opState = .busy then s else acceptStart s) := rfl

theorem exec_nopc (rsv : BitVec 7) (s : State) : exec (.nopc rsv) s = .next s := rfl

/-- `next_group` moves pc and nothing else, in one of three ways (R165). -/
theorem nextGroup_cases (s : State) :
    (s.g + 1 < gpr s.width ∧ nextGroup s = setPc s s.y (s.g + 1) .clr) ∨
    (gpr s.width ≤ s.g + 1 ∧ s.y + 1 < s.height ∧ nextGroup s = setPc s (s.y + 1) 0 .clr) ∨
    (gpr s.width ≤ s.g + 1 ∧ s.height ≤ s.y + 1 ∧ nextGroup s = setPc s s.y s.g .fin) := by
  unfold nextGroup
  by_cases h1 : s.g + 1 < gpr s.width
  · simp [h1]
  · by_cases h2 : s.y + 1 < s.height
    · simp [h1, h2]; omega
    · simp [h1, h2]; omega

/-- Everything a register write outside BUSY can do (R181, R183). -/
theorem writeReg_cases (s : State) (r : Reg) (v : Nat) :
    writeReg s r v = s ∨ writeReg s r v = commandStart s ∨ writeReg s r v = setWidth s (dataPhase s.params r v) ∨
    writeReg s r v = setHeight s (dataPhase s.params r v) ∨
    writeReg s r v = setThreshold s (thresholdOfBits s.params v) := by
  cases r <;> simp only [writeReg, true_or, or_true]
  split <;> simp

/-- Everything a host operation can do: nothing, a read, and outside BUSY a start or one parameter write. -/
theorem host_exec_cases {c : Code} {i : Instr} {s u : State} (hc : ∀ w, c ≠ .u w) (hd : decode c = .ok i)
    (he : exec i s = .next u) :
    u = s ∨ (∃ r, i = .rd r ∧ u = logRead s r (readReg s r)) ∨
    (s.opState ≠ .busy ∧ ((∃ rsv, i = .start rsv) ∨ (∃ v, i = .wr .ctrl v)) ∧ u = acceptStart s) ∨
    (s.opState ≠ .busy ∧ ((∃ v, u = setWidth s (dataPhase s.params .width v)) ∨
      (∃ v, u = setHeight s (dataPhase s.params .height v)) ∨
      (∃ v, u = setThreshold s (thresholdOfBits s.params v)))) := by
  have start : ∀ {s u : State}, commandStart s = u → u = s ∨ (s.opState ≠ .busy ∧ u = acceptStart s) := by
    intro s u h
    unfold commandStart at h
    split at h
    · exact .inl h.symm
    · exact .inr ⟨‹_›, h.symm⟩
  cases c with
  | u w => exact absurd rfl (hc w)
  | c w =>
    simp only [decode, decodeC] at hd
    cases hd
    split at he
    · rcases start (Host.Outcome.next.inj he) with h | ⟨hb, h⟩
      · exact .inl h
      · exact .inr (.inr (.inl ⟨hb, .inl ⟨_, by rw [if_pos ‹_›]⟩, h⟩))
    · exact .inl (Host.Outcome.next.inj he).symm
  | h addr data =>
    simp only [decode, decodeH] at hd
    cases hd
    split at he
    · rw [exec_wr] at he
      have he := Host.Outcome.next.inj he
      split at he
      · exact .inl he.symm
      · rename_i hb
        rw [if_pos ‹_›]
        cases hr : regOfNum (hNum addr) <;> rw [hr] at he <;> simp only [writeReg] at he
        case ctrl =>
          split at he
          · rcases start he with h | ⟨_, h⟩
            · exact .inl h
            · exact .inr (.inr (.inl ⟨hb, .inr ⟨_, rfl⟩, h⟩))
          · exact .inl he.symm
        case width => exact .inr (.inr (.inr ⟨hb, .inl ⟨_, he.symm⟩⟩))
        case height => exact .inr (.inr (.inr ⟨hb, .inr (.inl ⟨_, he.symm⟩)⟩))
        case threshold => exact .inr (.inr (.inr ⟨hb, .inr (.inr ⟨_, he.symm⟩)⟩))
        all_goals exact .inl he.symm
    · rw [if_neg ‹_›]
      exact .inr (.inl ⟨_, rfl, (Host.Outcome.next.inj he).symm⟩)

/-- Everything a step can do, one level deeper than `step_cases`: a reset, a rest, one host operation, or one fetched
micro-operation in BUSY; then `tick`. -/
theorem step_shapes {s t : State} (h : step s = .next t) :
    (∃ s', nextMove s = .reset s' ∧ (s' = s ∨ s' = popScript s) ∧
      (s.pins.reset = true ∨ (hostTurn s = true ∧ s.script.head? = some .reset)) ∧ t = tick (resetEngine s')) ∨
    (nextMove s = .quiet ∧ s.opState ≠ .busy ∧ t = tick s) ∨
    (∃ c s' i u, nextMove s = .run c s' ∧ (∀ w, c ≠ .u w) ∧ (s' = s ∨ s' = popScript s) ∧ decode c = .ok i ∧
      exec i s' = .next u ∧ t = tick u) ∨
    (s.opState = .busy ∧ nextMove s = .run (.u (fetchWord s)) s ∧ ∃ i u, decode (.u (fetchWord s)) = .ok i ∧
      exec i s = .next u ∧ t = tick u) := by
  have hs := step_cases h
  rcases nextMove_cases s with ⟨hm, hr⟩ | ⟨hm, -, -, hb⟩ | ⟨hm, -, -, hb⟩ | ⟨-, hh, hm, hne⟩
  · rw [hm] at hs ⊢
    rcases hs with ⟨s', he, ht⟩ | ⟨he, -⟩ | ⟨_, _, _, _, he, -⟩
    · cases he; exact .inl ⟨s, rfl, .inl rfl, .inl hr, ht⟩
    · cases he
    · cases he
  · rw [hm] at hs ⊢
    rcases hs with ⟨_, he, -⟩ | ⟨-, ht⟩ | ⟨_, _, _, _, he, -⟩
    · cases he
    · exact .inr (.inl ⟨rfl, hb, ht⟩)
    · cases he
  · rw [hm] at hs ⊢
    rcases hs with ⟨_, he, -⟩ | ⟨he, -⟩ | ⟨c, s', i, u, he, hd, hx, ht⟩
    · cases he
    · cases he
    · cases he; exact .inr (.inr (.inr ⟨hb, rfl, i, u, hd, hx, ht⟩))
  · rw [hm] at hs ⊢
    rcases hostMove_cases s hne with ⟨a, d, -, hc⟩ | ⟨w, -, hc⟩ | ⟨hd0, hc⟩ | ⟨-, hc⟩ <;> rw [hc] at hs ⊢
    · rcases hs with ⟨_, he, -⟩ | ⟨he, -⟩ | ⟨c, s', i, u, he, hd, hx, ht⟩
      · cases he
      · cases he
      · cases he; exact .inr (.inr (.inl ⟨_, _, i, u, rfl, by simp, .inr rfl, hd, hx, ht⟩))
    · rcases hs with ⟨_, he, -⟩ | ⟨he, -⟩ | ⟨c, s', i, u, he, hd, hx, ht⟩
      · cases he
      · cases he
      · cases he; exact .inr (.inr (.inl ⟨_, _, i, u, rfl, by simp, .inr rfl, hd, hx, ht⟩))
    · rcases hs with ⟨s', he, ht⟩ | ⟨he, -⟩ | ⟨_, _, _, _, he, -⟩
      · cases he; exact .inl ⟨_, rfl, .inr rfl, .inr ⟨hh, hd0⟩, ht⟩
      · cases he
      · cases he
    · rcases hs with ⟨_, he, -⟩ | ⟨he, -⟩ | ⟨c, s', i, u, he, hd, hx, ht⟩
      · cases he
      · cases he
      · cases he
        refine .inr (.inr (.inl ⟨_, _, i, u, rfl, by simp, ?_, hd, hx, ht⟩))
        split
        · exact .inl rfl
        · exact .inr rfl

end Sys2Proof.Machine
end

