-- ==== Sys2Proof/Laws/Run.lean ====
section
/-!
SUPPORT. Runs of several steps: a run is a step and then a run, runs compose, and a pack ends in one state after one
number of steps.
-/
namespace Sys2Proof.Machine

theorem runFor_zero (s : State) : runFor 0 s = .next s := rfl

theorem runFor_succ {s t : State} (n : Nat) (h : step s = .next t) : runFor (n + 1) s = runFor n t := by
  have h' : Sys2Proof.core.step s = .next t := h
  refine (Host.Core.run.eq_2 Sys2Proof.core s n).trans ?_
  rw [h']
  rfl

/-- Runs compose: `m` steps to `t`, then `n` more from there. -/
theorem runFor_add {s t : State} (m n : Nat) (h : runFor m s = .next t) : runFor (m + n) s = runFor n t := by
  induction m generalizing s with
  | zero => cases h; rw [Nat.zero_add]
  | succ m ih =>
    cases hs : step s with
    | next u =>
      rw [runFor_succ m hs] at h
      rw [Nat.succ_add, runFor_succ _ hs, ih h]
    | fault f => cases f
    | refused r =>
      have h' : Sys2Proof.core.step s = .refused r := hs
      have := (Host.Core.run.eq_2 Sys2Proof.core s m).symm.trans h
      rw [h'] at this
      cases this

/-- No two ends of one pack, one before the other. -/
theorem PackEnds.not_lt {s t t' : State} {n n' : Nat} (h : PackEnds n s t) (h' : PackEnds n' s t') : ¬ n < n' := by
  intro hlt
  obtain ⟨u, hu, hb⟩ := h'.2.1 n hlt
  obtain rfl : t = u := by injection h.1.symm.trans hu
  rcases h.2.2 with hd | hd <;> rw [hd] at hb <;> cases hb

/-- A pack ends in one state, after one number of steps. -/
theorem PackEnds.unique {s t t' : State} {n n' : Nat} (h : PackEnds n s t) (h' : PackEnds n' s t') : n = n' ∧ t = t' := by
  have := h.not_lt h'
  have := h'.not_lt h
  obtain rfl : n = n' := by omega
  exact ⟨rfl, by injection h.1.symm.trans h'.1⟩

/-- A pack in BUSY ends one step later than from its next state. -/
theorem PackEnds.succ {s s' t : State} {n : Nat} (hb : s.opState = .busy) (hs : step s = .next s') (h : PackEnds n s' t) :
    PackEnds (n + 1) s t := by
  refine ⟨(runFor_succ n hs).trans h.1, fun m hm => ?_, h.2.2⟩
  cases m with
  | zero => exact ⟨s, rfl, hb⟩
  | succ m => rw [runFor_succ m hs]; exact h.2.1 m (by omega)

theorem SameInputs.symm {s s' : State} (h : SameInputs s s') : SameInputs s' s :=
  ⟨h.1.symm, h.2.1.symm, h.2.2.1.symm, h.2.2.2.symm⟩

/-- The lines of `PACK w, h, t` (R110). -/
theorem packScript_some (p : Params) (w h : Nat) (t : Int) : packScript p w h (some t) =
    [.transfer 0b1010#4 w, .transfer 0b1011#4 h, .transfer 0b1100#4 (thresholdToBits p t), .command 0x01#8, .wait] := rfl

/-- The lines of `PACK w, h` (R110). -/
theorem packScript_none (p : Params) (w h : Nat) : packScript p w h none =
    [.transfer 0b1010#4 w, .transfer 0b1011#4 h, .command 0x01#8, .wait] := rfl

end Sys2Proof.Machine
end

