-- ==== Sys2Proof/Tests/Slice0.lean ====
section
/-!
SUPPORT. The model's own tests: WellFormed refuses an ill-formed write, words written out from the spec's encodings
decode, one step per instruction with the results of spec/95_test_vectors.md, and a witness for the hypotheses of each
statement of Obligations.lean.
-/
open Sys2Proof Sys2Proof.Machine
namespace Sys2Proof.Tests

/-! ### Helpers -/

/-- The next state of an outcome. -/
def nextOf : Host.Outcome State Fault Refusal → Option State
  | .next s => some s
  | .fault _ => none
  | .refused _ => none

/-- The word a boundary runs, if it runs one. -/
def wordOf : Move → Option Code
  | .run c _ => some c
  | .reset _ => none
  | .quiet => none

/-- An engine in IDLE with its parameters written and a grid of the given rows, all as long as WIDTH. -/
def idle (w h : Nat) (t : Int) (rows : List (List Byte)) : State :=
  { State.reset with
    width := w, height := h, threshold := t, grid := Grid.ofRows w rows }

/-- The same engine in BUSY at a position, with an accumulator. -/
def busy (w h : Nat) (t : Int) (rows : List (List Byte)) (y g : Nat) (slot : Slot) (acc : Byte) : State :=
  { idle w h t rows with
    opState := .busy, y := y, g := g, slot := slot, acc := acc, events := [.begin] }

/-- A state with other input levels. -/
def withPins (s : State) (p : Pins) : State := { s with pins := p }

/-- A state with a host script. -/
def withScript (s : State) (l : List HostItem) : State := { s with script := l }

/-- One row of three samples, WIDTH 3. -/
def rowOfThree : List (List Byte) := [[255, 128, 127]]

/-- G10 of spec/95_test_vectors.md, section 2.1. -/
def g10 : List (List Byte) :=
  [[0, 100, 99, 101, 255, 100, 0, 50, 100, 99], [200, 10, 20, 30, 40, 50, 60, 70, 80, 100]]

/-! ### WellFormed (R75, R181): a write of a value wider than its register is refused, per width -/

theorem test_wellFormed_ctrl : Instr.wellFormed Params.example16 (.wr .ctrl 256) = false := by decide

theorem test_wellFormed_status : Instr.wellFormed Params.example16 (.wr .status 256) = false := by decide

theorem test_wellFormed_width : Instr.wellFormed Params.example16 (.wr .width 65536) = false := by decide

theorem test_wellFormed_height : Instr.wellFormed Params.example16 (.wr .height 65536) = false := by decide

theorem test_wellFormed_threshold : Instr.wellFormed Params.example16 (.wr .threshold 65536) = false := by decide

theorem test_wellFormed_bytecount : Instr.wellFormed Params.example16 (.wr .bytecount 4294967296) = false := by decide

theorem test_wellFormed_outcount : Instr.wellFormed Params.example16 (.wr .outcount 4294967296) = false := by decide

theorem test_wellFormed_uop : Instr.wellFormed Params.example16 (.wr .uop 256) = false := by decide

theorem test_wellFormed_accepts :
    Instr.wellFormed Params.example16 (.wr .ctrl 255) = true ∧ Instr.wellFormed Params.example16 (.wr .width 65535) = true ∧
    Instr.wellFormed Params.example16 (.wr .bytecount 4294967295) = true := by decide

/-! ### Decoding: words written out from the encodings of R101, R102 and R94 -/

theorem test_decode_chk : decodeU 0b00010000#8 = .ok .chk := by decide

theorem test_decode_clr : decodeU 0b00100000#8 = .ok .clr := by decide

theorem test_decode_tst : decodeU 0b00110101#8 = .ok (.tst 5) := by decide

theorem test_decode_pad : decodeU 0b01000110#8 = .ok (.pad 6) := by decide

theorem test_decode_emit : decodeU 0b01010000#8 = .ok .emit := by decide

theorem test_decode_fin : decodeU 0b01100000#8 = .ok .fin := by decide

theorem test_decode_rd : decodeH 0b0001#4 0 = .rd .status := by decide

theorem test_decode_wr : decodeH 0b1100#4 0xFFFF = .wr .threshold 0xFFFF := by decide

theorem test_decode_start : decodeC 0b10000001#8 = .start 0b1000000#7 := by decide

theorem test_decode_nopc : decodeC 0b10000000#8 = .nopc 0b1000000#7 := by decide

/-- The register numbers of R40. -/
theorem test_decode_registers : (List.range 8).map (fun n => decodeH (BitVec.ofNat 4 n) 0) =
    [.rd .ctrl, .rd .status, .rd .width, .rd .height, .rd .threshold, .rd .bytecount, .rd .outcount, .rd .uop] := by decide

/-- The invalid words spec/95 section 2.6 lists, each rejected by name. -/
theorem test_decode_invalid :
    decodeU 0x00#8 = .error .reservedOp ∧ decodeU 0x11#8 = .error .operandNotZero ∧ decodeU 0x38#8 = .error .bit3Set ∧
    decodeU 0x70#8 = .error .reservedOp ∧ decodeU 0xFF#8 = .error .reservedOp ∧ decodeU 0x21#8 = .error .operandNotZero ∧
    decodeU 0x58#8 = .error .bit3Set ∧ decodeU 0x61#8 = .error .operandNotZero := by decide

/-- No two rows of one format share a word: some bit fixed in both differs. -/
theorem test_rows_disjoint : ∀ rows ∈ [rowsU, rowsH, rowsC],
    rows.Pairwise (fun r r' => (r.pattern ^^^ r'.pattern) &&& r.mask &&& r'.mask ≠ 0) := by decide

/-- The decoder takes a word exactly when a row of format U holds it, and for that row's instruction. -/
theorem test_rows_decode : ∀ w : BitVec 8, (rowOf rowsU w.toNat).map Row.mnemonic =
    (match decodeU w with | .ok i => some (mnemonic i) | .error _ => none) := by decide

/-! ### Words of the opcode table, and the step that runs them from reset -/

/-- One word of each row of spec/opcode_table.json; RD and WR rows are 4 bits wide. -/
theorem test_decodeTableWord :
    decodeTableWord 8 0x10 = some .chk ∧ decodeTableWord 8 0x20 = some .clr ∧ decodeTableWord 8 0x37 = some (.tst 7) ∧
    decodeTableWord 8 0x40 = some (.pad 0) ∧ decodeTableWord 8 0x50 = some .emit ∧ decodeTableWord 8 0x60 = some .fin ∧
    decodeTableWord 4 0x0 = some (.rd .ctrl) ∧ decodeTableWord 4 0x8 = some (.wr .ctrl 0) ∧
    decodeTableWord 8 0x08 = some (.wr .ctrl 0) ∧ decodeTableWord 8 0x01 = some (.start 0) ∧
    decodeTableWord 8 0x00 = some (.nopc 0) := by decide

theorem test_withFetchWord_uops : ∀ w ∈ [0x10, 0x20, 0x30, 0x37, 0x40, 0x47, 0x50, 0x60],
    wordOf (nextMove (State.reset.withFetchWord 8 w)) = some (.u (BitVec.ofNat 8 w)) := by decide

theorem test_withFetchWord_host :
    wordOf (nextMove (State.reset.withFetchWord 4 0x0)) = some (.h 0x0#4 0) ∧
    wordOf (nextMove (State.reset.withFetchWord 4 0x8)) = some (.h 0x8#4 0) ∧
    wordOf (nextMove (State.reset.withFetchWord 8 0x01)) = some (.c 0x01#8) ∧
    wordOf (nextMove (State.reset.withFetchWord 8 0x00)) = some (.c 0x00#8) := by decide

/-! ### One step per instruction (spec/95 section 2.3 and 2.5) -/

/-- U2. -/
theorem test_chk_degenerate : (nextOf (step (busy 0 5 128 [] 0 0 .chk 0))).map (·.slot) = some .fin := by decide

/-- U5. -/
theorem test_chk_param : (nextOf (step (busy 3 1 256 rowOfThree 0 0 .chk 0x5A))).map
    (fun s => (statusWord s, irq s, s.acc, s.k, s.events)) = some (0x07#8, true, 0x5A#8, 0, [.begin, .abort]) := by decide

/-- U7. -/
theorem test_clr : (nextOf (step (busy 3 1 128 rowOfThree 0 0 .clr 0xFF))).map (fun s => (s.acc, s.slot)) =
    some (0x00#8, .bit 0) := by decide

/-- U10: the sample equals the threshold. -/
theorem test_tst_inclusive : (nextOf (step (busy 3 1 128 [[255, 0, 128]] 0 0 (.bit 2) 0x80))).map (fun s => (s.acc, s.slot)) =
    some (0xA0#8, .bit 3) := by decide

/-- U13: row 1 of a provider with one row. -/
theorem test_tst_fault : (nextOf (step { busy 3 2 128 rowOfThree 1 0 (.bit 0) 0x12 with
      k := 1, out := [0xC0#8] })).map
    (fun s => (statusWord s, s.acc, s.k, s.out, s.events)) = some (0x0B#8, 0x12#8, 0, [], [.begin, .abort]) := by decide

/-- U14. -/
theorem test_pad : (nextOf (step (busy 3 1 128 rowOfThree 0 0 (.bit 3) 0xE0))).map (fun s => (s.acc, s.slot)) =
    some (0xE0#8, .bit 4) := by decide

/-- U15. -/
theorem test_pad_last : (nextOf (step (busy 3 1 128 rowOfThree 0 0 (.bit 7) 0xE0))).map (·.slot) = some .emit := by decide

/-- U18: the last group of row 0. -/
theorem test_emit_next_row : (nextOf (step { busy 10 2 100 g10 0 1 .emit 0x80 with
      k := 1, out := [0x5C#8] })).map
    (fun s => (s.k, s.y, s.g, s.slot, s.out)) = some (2, 1, 0, .clr, [0x5C#8, 0x80#8]) := by decide

/-- U19: the last group of all, where pc becomes (1, 1, FIN). -/
theorem test_emit_last : (nextOf (step { busy 10 2 100 g10 1 1 .emit 0x40 with
      k := 3, out := [0x5C#8, 0x80#8, 0x80#8] })).map
    (fun s => (s.k, s.y, s.g, s.slot, s.out)) = some (4, 1, 1, .fin, [0x5C#8, 0x80#8, 0x80#8, 0x40#8]) := by decide

/-- U20. -/
theorem test_fin : (nextOf (step { busy 3 1 128 rowOfThree 0 0 .fin 0xE0 with
      k := 1, out := [0xE0#8] })).map
    (fun s => (statusWord s, irq s, s.events, s.artifact)) =
    some (0x02#8, true, [.begin, .commit], some ⟨3, 1, 1, [0xE0#8]⟩) := by decide

/-- H1. -/
theorem test_rd_reset : [Reg.status, .width, .height, .threshold, .bytecount, .outcount, .uop, .ctrl].map (readReg State.reset) =
    [0x00, 0, 0, 128, 0, 0, 0x00, 0x00] := by decide

/-- H12: THRESHOLD -1 reads back as 0xFFFF. -/
theorem test_rd_threshold : (nextOf (step (withScript (idle 0 0 (-1) []) [.transfer 0b0100#4 0]))).map (·.reads) =
    some [⟨.threshold, 0xFFFF⟩] := by decide

/-- H3. -/
theorem test_wr_status : (nextOf (step (withScript State.reset [.transfer 0b1001#4 0xFF]))).map statusWord =
    some 0x00#8 := by decide

/-- H12: the write. -/
theorem test_wr_threshold : (nextOf (step (withScript State.reset [.transfer 0b1100#4 0xFFFF]))).map
    (fun s => (s.threshold, statusWord s)) = some (-1, 0x00#8) := by decide

/-- H5. -/
theorem test_start : (nextOf (step (withScript State.reset [.command 0xFF#8]))).map (fun s => (statusWord s, s.slot, s.events)) =
    some (0x01#8, .chk, [.begin]) := by decide

/-- H7: discarded in BUSY. -/
theorem test_start_busy : (nextOf (step (withPins (withScript { busy 10 2 100 g10 0 1 .clr 0 with
      k := 1, out := [0x5C#8] } [.command 0x01#8]) { Pins.quiet with
      hostFirst := true }))).map
    (fun s => (statusWord s, s.k, s.out, s.slot)) = some (0x01#8, 1, [0x5C#8], .clr) := by decide

/-- H4. -/
theorem test_nopc : (nextOf (step (withScript State.reset [.command 0xFE#8]))).map
    (fun s => (statusWord s, s.events)) = some (0x00#8, []) := by decide

/-! ### Operations against the tables of the spec -/

/-- Section 2.2. -/
theorem test_gpr : [0, 1, 7, 8, 9, 16, 17, 65528, 65529, 65535].map gpr = [0, 1, 1, 1, 2, 2, 3, 8191, 8192, 8192] ∧
    byteCount 65535 65535 = 536862720 ∧ byteCount 160 68 = 1360 := by decide

/-- Section 2.2: the enable masks of the last group. -/
theorem test_enableMask : [1, 2, 3, 4, 5, 6, 7, 8].map (fun w => enableMask w 0) =
    [0x80#8, 0xC0#8, 0xE0#8, 0xF0#8, 0xF8#8, 0xFC#8, 0xFE#8, 0xFF#8] := by decide

/-- Section 2.4. -/
theorem test_fetch : fetch 3 0 (.bit 2) = 0x32#8 ∧ fetch 3 0 (.bit 3) = 0x43#8 ∧ fetch 8 0 (.bit 7) = 0x37#8 ∧
    fetch 9 1 (.bit 0) = 0x30#8 ∧ fetch 9 1 (.bit 1) = 0x41#8 ∧ fetch 10 1 (.bit 1) = 0x31#8 ∧
    fetch 10 1 (.bit 2) = 0x42#8 := by decide

/-- C5: 127, 128 and 129 against 128, and a second byte for the ninth column. -/
theorem test_pack_inclusive :
    packedBytes (Grid.ofRows 9 [[127, 128, 129, 0, 255, 128, 127, 126, 128]]) 9 1 128 = [0x6C#8, 0x80#8] := by decide

/-- C10. -/
theorem test_pack_g10 : packedBytes (Grid.ofRows 10 g10) 10 2 100 = [0x5C#8, 0x80#8, 0x80#8, 0x40#8] := by decide

/-- C14: PARAM for an empty grid. -/
theorem test_pack_param_first : pack (Grid.ofRows 0 []) 0 0 300 = .paramError := by decide

/-- P1's words. -/
theorem test_packProgram : packProgram 3 1 =
    [0x10#8, 0x20#8, 0x30#8, 0x31#8, 0x32#8, 0x43#8, 0x44#8, 0x45#8, 0x46#8, 0x47#8, 0x50#8, 0x60#8] := by decide

/-- The memory at reset and a grid built from rows are in canonical form. -/
theorem test_grid_wf : State.reset.grid.wf = true ∧ (Grid.ofRows 10 g10).wf = true := by decide

/-! ### Witnesses: the hypotheses of each statement of Obligations.lean can be met together, at the edges of each clause -/

/-- An engine in IDLE, left alone, its parameters written and its grid consistent. -/
def ready : State := idle 3 1 128 rowOfThree

/-- The same with an output produced and an earlier result standing. -/
def doneState : State :=
  { idle 3 1 128 rowOfThree with
    opState := .done, k := 1, out := [0xC0#8], slot := .fin, artifact := some ⟨3, 1, 1, [0xC0#8]⟩
    events := [.begin, .byte 0xC0#8, .commit], acc := 0xC0#8 }

/-- In ERROR with PARAM. -/
def errorState : State :=
  { idle 3 1 256 rowOfThree with
    opState := .error, err := .param, events := [.begin, .abort] }

/-- In BUSY inside a group, at bit slot 2 with two bits done. -/
def midGroup : State :=
  { busy 3 1 128 rowOfThree 0 0 (.bit 2) 0xC0 with
    sampleReads := [(0, 0), (1, 0)] }

/-- In BUSY at EMIT. -/
def atEmit : State := busy 3 1 128 rowOfThree 0 0 .emit 0xC0

/-- No port answers. -/
def deaf : Pins := { reset := false, hostFirst := false, sampleReady := false, byteReady := false }

theorem witness_EncodeUndoesDecode :
    decode (.h 0b0110#4 0) = .ok (.rd .outcount) ∧ decode (.h 0b1110#4 7) = .ok (.wr .outcount 7) ∧
    decode (.u 0x47#8) = .ok (.pad 7) ∧ decode (.c 0xFE#8) = .ok (.nopc 0x7F#7) ∧
    (0b0110#4).getLsbD 3 = false ∧ (0b1110#4).getLsbD 3 = true := by decide

theorem witness_DecoderAcceptsTwentyWords : State.reset.opState ≠ .busy ∧ errorState.opState ≠ .busy := by decide

theorem witness_CommandWordBits : (0x01#8).getLsbD 0 = (0xFF#8).getLsbD 0 ∧ decode (.c 0x01#8) = .ok (.start 0) ∧
    decode (.c 0xFF#8) = .ok (.start 0x7F#7) ∧ (0x00#8).getLsbD 0 = (0xFE#8).getLsbD 0 ∧
    decode (.c 0x00#8) = .ok (.nopc 0) ∧ decode (.c 0xFE#8) = .ok (.nopc 0x7F#7) := by decide

/-- Column 2 is below WIDTH 3 and column 3 is not. -/
theorem witness_FetchTable : 8 * 0 + (2 : Fin 8).val < 3 ∧ 3 ≤ 8 * 0 + (3 : Fin 8).val ∧
    ready.width = errorState.width ∧ ready.g = errorState.g ∧ ready.slot = errorState.slot := by decide

theorem witness_StepRunsFetchedUop : midGroup.pins.reset = false ∧ hostTurn midGroup = false ∧ midGroup.opState = .busy ∧
    decode (.u (fetchWord midGroup)) = .ok (.tst 2) ∧ ∃ t, exec (.tst 2) midGroup = .next t :=
  ⟨by decide, by decide, by decide, by decide, _, rfl⟩

theorem witness_StepRunsHostLine :
    let s := withScript ready [.transfer 0b1010#4 3]
    let s' := withScript ready [.command 0xFF#8]
    s.pins.reset = false ∧ hostTurn s = true ∧ s.script = .transfer 0b1010#4 3 :: [] ∧
    decode (.h 0b1010#4 3) = .ok (.wr .width 3) ∧ (∃ t, exec (.wr .width 3) { s with script := [] } = .next t) ∧
    s'.pins.reset = false ∧ hostTurn s' = true ∧ s'.script = .command 0xFF#8 :: [] ∧
    decode (.c 0xFF#8) = .ok (.start 0x7F#7) ∧ (∃ t, exec (.start 0x7F#7) { s' with script := [] } = .next t) :=
  ⟨by decide, by decide, by decide, by decide, ⟨_, rfl⟩, by decide, by decide, by decide, by decide, ⟨_, rfl⟩⟩

theorem witness_EngineRestsOutsideBusy : doneState.pins.reset = false ∧ doneState.script = [] ∧ doneState.opState ≠ .busy := by
  decide

/-- A changed STATE by each of the five ways R25 lists: RESET, START, CHK, TST and FIN. -/
theorem witness_StateTransitions :
    (nextOf (step (withPins atEmit { Pins.quiet with reset := true }))).map (·.opState) = some .idle ∧
    (nextOf (step (withScript ready [.command 0x01#8]))).map (·.opState) = some .busy ∧
    (nextOf (step (withScript ready [.transfer 0b1000#4 1]))).map (·.opState) = some .busy ∧
    (nextOf (step (busy 3 1 256 rowOfThree 0 0 .chk 0))).map (·.opState) = some .error ∧
    (nextOf (step (busy 3 2 128 rowOfThree 1 0 (.bit 0) 0))).map (·.opState) = some .error ∧
    (nextOf (step (busy 3 1 128 rowOfThree 0 0 .fin 0))).map (·.opState) = some .done := by decide

theorem witness_ResetAppliesItsValues :
    (withPins midGroup { Pins.quiet with reset := true }).pins.reset = true ∧
    (withScript doneState [.reset]).pins.reset = false ∧ hostTurn (withScript doneState [.reset]) = true ∧
    midGroup.opState = .busy ∧
    (nextOf (step (withPins midGroup { Pins.quiet with reset := true }))).map (·.opState) = some .idle ∧
    (nextOf (step (withPins (withScript midGroup [.reset]) { Pins.quiet with hostFirst := true }))).map (·.opState) =
      some .idle := by decide

theorem witness_ResetValues : (withPins doneState { Pins.quiet with reset := true }).pins.reset = true := by decide

/-- 0 and 255 are legal, -1 and 256 are not (R141). -/
theorem witness_ChkValidatesThreshold : ∀ t ∈ [(0 : Int), 255, -1, 256],
    (busy 3 1 t rowOfThree 0 0 .chk 0).opState = .busy ∧ (busy 3 1 t rowOfThree 0 0 .chk 0).threshold = t ∧
    ((0 ≤ t ∧ t ≤ 255) ∨ t < 0 ∨ 255 < t) := by decide

theorem witness_ClrClearsAccumulator : (busy 3 1 128 rowOfThree 0 0 .clr 0xFF).opState = .busy := by decide

/-- The sample at the last column is answered; the column after it is not. -/
theorem witness_TstTestsOneSample : midGroup.opState = .busy ∧ midGroup.pins.sampleReady = true ∧
    midGroup.grid.read (8 * midGroup.g + (2 : Fin 8).val) midGroup.y = some 127 ∧
    midGroup.grid.read (8 * midGroup.g + (3 : Fin 8).val) midGroup.y = none := by decide

/-- A sample one below the threshold and a sample at it. -/
theorem witness_TstSetsOneBit : midGroup.opState = .busy ∧ midGroup.pins.sampleReady = true ∧ 0 ≤ midGroup.threshold ∧
    midGroup.threshold ≤ 255 ∧ midGroup.grid.read (8 * midGroup.g + (2 : Fin 8).val) midGroup.y = some 127 ∧
    midGroup.grid.read (8 * midGroup.g + (1 : Fin 8).val) midGroup.y = some 128 ∧
    (∃ t, exec (.tst 2) midGroup = .next t) ∧ ∃ t, exec (.tst 1) midGroup = .next t :=
  ⟨by decide, by decide, by decide, by decide, by decide, by decide, ⟨_, rfl⟩, _, rfl⟩

theorem witness_PadOnlyAdvances : (busy 3 1 128 rowOfThree 0 0 (.bit 7) 0xE0).opState = .busy := by decide

/-- EMIT in the last group of all and in the first of two rows. -/
theorem witness_EmitAppendsAccumulator : atEmit.opState = .busy ∧ atEmit.pins.byteReady = true ∧ atEmit.out.length = atEmit.k ∧
    (busy 10 2 100 g10 0 0 .emit 0x5C).opState = .busy ∧ (busy 10 2 100 g10 0 0 .emit 0x5C).pins.byteReady = true := by decide

theorem witness_FinFinishes : (busy 3 1 128 rowOfThree 0 0 .fin 0xC0).opState = .busy := by decide

theorem witness_UopsExecuteOnlyInBusy : isUop (.tst 7) = true ∧ isUop .emit = true ∧ ready.opState ≠ .busy := by decide

theorem witness_StalledPortNoEffect : (withPins midGroup deaf).opState = .busy ∧ (withPins midGroup deaf).pins.sampleReady = false ∧
    (withPins atEmit deaf).opState = .busy ∧ (withPins atEmit deaf).pins.byteReady = false := by decide

theorem witness_StalledEngineStays :
    (∀ s ∈ [withPins midGroup deaf, withPins atEmit deaf], s.opState = .busy ∧ s.pins.reset = false ∧ hostTurn s = false ∧
      s.pinsLater = []) ∧
    ((withPins atEmit deaf).slot = .emit ∧ (withPins atEmit deaf).pins.byteReady = false) ∧
    ((withPins midGroup deaf).slot = .bit 2 ∧ 8 * (withPins midGroup deaf).g + (2 : Fin 8).val < (withPins midGroup deaf).width ∧
      (withPins midGroup deaf).pins.sampleReady = false) := by decide

theorem witness_UopFrame : isUop (.tst 2) = true ∧ isUop .emit = true ∧ isUop .chk = true ∧
    (∃ t, exec (.tst 2) midGroup = .next t) ∧ (∃ t, exec .emit atEmit = .next t) ∧ (∃ t, exec .chk ready = .next t) :=
  ⟨by decide, by decide, by decide, ⟨_, rfl⟩, ⟨_, rfl⟩, _, rfl⟩

/-- The largest value of each width, and the two sides of THRESHOLD's sign. -/
theorem witness_WrWritesRegister : midGroup.opState = .busy ∧ ready.opState ≠ .busy ∧ 255 < 2 ^ 8 ∧
    65535 < 2 ^ ready.params.dimW ∧ ready.params.legal = true ∧ 65535 < 2 ^ ready.params.thrW ∧
    32767 < 2 ^ (ready.params.thrW - 1) ∧ ¬ 32768 < 2 ^ (ready.params.thrW - 1) ∧
    Reg.uop ∈ [Reg.status, .bytecount, .outcount, .uop] := by decide

theorem witness_BusyDiscardsWrites : midGroup.opState = .busy := by decide

theorem witness_ParametersReadBack : Reg.threshold ∈ [Reg.width, .height, .threshold] ∧ doneState.opState ≠ .busy ∧
    (Instr.wr .threshold 65535).wellFormed doneState.params = true ∧ (Instr.wr .width 0).wellFormed doneState.params = true := by
  decide

/-- START is accepted from IDLE, DONE and ERROR and discarded in BUSY. -/
theorem witness_StartBeginsPack : ready.opState ≠ .busy ∧ doneState.opState ≠ .busy ∧ errorState.opState ≠ .busy ∧
    midGroup.opState = .busy := by decide

theorem witness_NopcDoesNothing : 0 < 2 ^ 8 ∧ 0 % 2 = 0 ∧ 254 < 2 ^ 8 ∧ 254 % 2 = 0 := by decide

theorem witness_HostOperationFrame : (∃ t, exec (.rd .uop) midGroup = .next t) ∧ Reg.width ≠ .ctrl ∧
    (∃ t, exec (.wr .width 8) doneState = .next t) ∧ ∃ t, exec (.nopc 0) errorState = .next t :=
  ⟨⟨_, rfl⟩, by decide, ⟨_, rfl⟩, _, rfl⟩

theorem witness_WaitPollsStatus :
    (withScript doneState [.wait]).pins.reset = false ∧ (withScript doneState [.wait]).script = .wait :: [] ∧
    (withScript doneState [.wait]).opState ≠ .busy ∧
    (withPins (withScript midGroup [.wait]) { Pins.quiet with hostFirst := true }).pins.hostFirst = true ∧
    (withPins (withScript midGroup [.wait]) { Pins.quiet with hostFirst := true }).pins.reset = false ∧
    (withScript midGroup [.wait]).opState = .busy := by decide

/-- The two forms of PACK (R110): with and without the THRESHOLD write. -/
theorem test_packScript :
    packScript Params.example16 10 2 (some 100) =
      [.transfer 0b1010#4 0x000A, .transfer 0b1011#4 0x0002, .transfer 0b1100#4 0x0064, .command 0x01#8, .wait] ∧
    packScript Params.example16 1 2 none = [.transfer 0b1010#4 0x0001, .transfer 0b1011#4 0x0002, .command 0x01#8, .wait] := by
  decide

/-- The largest dimensions, the extremes of THRESHOLD, and no THRESHOLD. -/
theorem witness_PackScriptStartsPack : ∀ t ∈ [none, some (-32768 : Int), some 128, some 32767],
    let s := withScript State.reset (packScript Params.example16 65535 0 t ++ [.transfer 0b0110#4 0])
    s.pins = Pins.quiet ∧ s.pinsLater = [] ∧ s.opState ≠ .busy ∧ s.params.legal = true ∧ 65535 < 2 ^ s.params.dimW ∧
    0 < 2 ^ s.params.dimW ∧ (∀ v ∈ t, -(2 ^ (s.params.thrW - 1) : Int) ≤ v ∧ v < (2 ^ (s.params.thrW - 1) : Int)) ∧
    s.script = packScript s.params 65535 0 t ++ [.transfer 0b0110#4 0] := by decide

theorem witness_StatusTakesFiveValues : ∀ s ∈ [ready, midGroup, doneState, errorState, { errorState with err := .grid }],
    (s.err ≠ .none ↔ s.opState = .error) := by decide

theorem witness_IrqFollowsState : (∃ t, exec (.start 0) doneState = .next t) ∧
    (busy 3 1 128 rowOfThree 0 0 .fin 0xC0).opState = .busy ∧
    (∃ t, exec .fin (busy 3 1 128 rowOfThree 0 0 .fin 0xC0) = .next t) ∧
    (busy 3 1 256 rowOfThree 0 0 .chk 0).err = .none ∧
    (nextOf (exec .chk (busy 3 1 256 rowOfThree 0 0 .chk 0))).map (·.err) = some .param ∧
    irq doneState = true ∧ (nextOf (step (withScript doneState [.command 0x01#8]))).map irq = some false ∧
    (nextOf (step (withScript doneState [.reset]))).map irq = some false :=
  ⟨⟨_, rfl⟩, by decide, ⟨_, rfl⟩, by decide, by decide, by decide, by decide, by decide⟩

theorem witness_ByteCountFollowsRegisters : doneState.opState = .done ∧ 65535 < 2 ^ doneState.params.dimW := by decide

theorem witness_GroupsPerRow : 0 < 1 ∧ 3 ≤ 3 ∧ 7 < 2 ^ 3 ∧ 0 < 2 ^ 3 ∧ 3 ≤ 16 ∧ 65535 < 2 ^ 16 := by decide

theorem witness_CountsAndColumnsFit :
    (Params.mk 3 10).legal = true ∧ 7 < 2 ^ (Params.mk 3 10).dimW ∧ 0 < gpr 7 ∧ Params.example16.legal = true ∧
    65535 < 2 ^ Params.example16.dimW ∧ 8191 < gpr 65535 := by decide

/-- The last sample of the rectangle, and the two first positions outside it. -/
theorem witness_ProviderAnswers : ready.pins.sampleReady = true ∧ (2 < ready.grid.w ∧ 0 < ready.grid.h) ∧
    ¬ (3 < ready.grid.w ∧ 0 < ready.grid.h) ∧ ¬ (2 < ready.grid.w ∧ 1 < ready.grid.h) := by decide

/-! The invariants hold in the middle of a pack too. -/

theorem midGroup_inRange : InRange midGroup where
  params := by decide
  grid := by decide
  width := by decide
  height := by decide
  thresholdLow := by decide
  thresholdHigh := by decide
  y := by decide
  g := by decide
  k := by decide

theorem witness_StepKeepsControlInv : ControlInv midGroup ∧ ∃ t, step midGroup = .next t :=
  ⟨{ range := midGroup_inRange, outLength := by decide, noOutput := by decide, errIff := by decide, atChk := by decide
     inGroup := by decide, atFin := by decide }, _, rfl⟩

theorem witness_StepKeepsDataInv : ControlInv midGroup ∧ DataInv midGroup ∧ ∃ t, step midGroup = .next t :=
  ⟨witness_StepKeepsControlInv.1,
    { accHolds := by
        intro _ n hn
        obtain rfl : (2 : Nat) = n := Option.some.inj hn
        decide
      outPrefix := by decide
      doneArtifact := by intro h; exact absurd h (by decide)
      noArtifact := by decide }, _, rfl⟩

theorem witness_StepKeepsPortInv : PortInv midGroup ∧ PortInv doneState ∧ PortInv errorState ∧ ∃ t, step midGroup = .next t :=
  ⟨by unfold PortInv; decide, by unfold PortInv; decide, by unfold PortInv; decide, _, rfl⟩

theorem witness_ReadsStayInRange : ControlInv midGroup ∧ (∃ t, step midGroup = .next t) ∧
    (nextOf (step midGroup)).map (·.sampleReads) = some [(0, 0), (1, 0), (2, 0)] :=
  ⟨witness_StepKeepsControlInv.1, ⟨_, rfl⟩, by decide⟩

theorem witness_StepKeepsGridAndWidths : ∃ t, step midGroup = .next t := ⟨_, rfl⟩

theorem witness_BusyKeepsParameters : midGroup.opState = .busy ∧ (∃ t, step midGroup = .next t) ∧
    wordOf (nextMove midGroup) = some (.u 0x32#8) := ⟨by decide, ⟨_, rfl⟩, by decide⟩

theorem witness_SequencerComputesPack : ∀ s ∈ [ready, doneState, errorState, idle 3 2 128 rowOfThree],
    EngineAlone s ∧ s.opState ≠ .busy := by unfold EngineAlone; decide

/-- The hypotheses of a successful pack, at the two extreme thresholds. -/
theorem witness_SuccessfulPackExactSteps : ∀ t ∈ [(0 : Int), 255],
    EngineAlone (idle 10 2 t g10) ∧ (idle 10 2 t g10).opState ≠ .busy ∧ GridConsistent (idle 10 2 t g10) ∧
    0 ≤ (idle 10 2 t g10).threshold ∧ (idle 10 2 t g10).threshold ≤ 255 := by
  unfold EngineAlone GridConsistent; decide

theorem witness_PackRunsItsProgram : EngineAlone ready ∧ ready.opState ≠ .busy ∧ GridConsistent ready ∧ 0 ≤ ready.threshold ∧
    ready.threshold ≤ 255 := by unfold EngineAlone GridConsistent; decide

theorem witness_PackReadsInRasterOrder : EngineAlone doneState ∧ doneState.opState ≠ .busy ∧ GridConsistent doneState ∧
    0 ≤ doneState.threshold ∧ doneState.threshold ≤ 255 := by unfold EngineAlone GridConsistent; decide

/-- The first illegal value on either side, the upper one for a degenerate grid. -/
theorem witness_IllegalThresholdStopsAtOnce : ∀ s ∈ [idle 3 1 (-1) rowOfThree, idle 0 0 256 []],
    EngineAlone s ∧ s.opState ≠ .busy ∧ (s.threshold < 0 ∨ 255 < s.threshold) := by unfold EngineAlone; decide

theorem witness_DegenerateGridPacksToNothing : ∀ s ∈ [idle 0 5 0 [], idle 5 0 255 []],
    EngineAlone s ∧ s.opState ≠ .busy ∧ (s.width = 0 ∨ s.height = 0) ∧ 0 ≤ s.threshold ∧ s.threshold ≤ 255 := by
  unfold EngineAlone; decide

/-- Two states that differ in ACC, OUT, the artifact and the history, and agree on the inputs of a pack. -/
theorem witness_PackDependsOnInputsOnly : EngineAlone ready ∧ EngineAlone doneState ∧ ready.opState ≠ .busy ∧
    doneState.opState ≠ .busy ∧ SameInputs ready doneState ∧ ready.acc ≠ doneState.acc := by
  unfold EngineAlone SameInputs; decide

/-- Outside BUSY with an empty grid and an old accumulator, and at the first boundaries a host that reads STATUS and tries
to write WIDTH. -/
def disturbed : State :=
  withPins (withScript { idle 0 5 128 [] with acc := 0x5A } [.transfer 0b0001#4 0, .transfer 0b1010#4 8])
    { deaf with hostFirst := true }

/-- A pack left alone ends in two steps, the disturbed one in four, on the same inputs. -/
theorem witness_PackDependsOnInputsOnly_timing :
    (idle 0 5 128 []).opState ≠ .busy ∧ disturbed.opState ≠ .busy ∧ SameInputs (idle 0 5 128 []) disturbed ∧
    (∃ t, PackEnds 2 (acceptStart (idle 0 5 128 [])) t) ∧ ∃ t, PackEnds 4 (acceptStart disturbed) t := by
  refine ⟨by decide, by decide, ⟨rfl, rfl, rfl, rfl⟩, ⟨_, rfl, fun m hm => ?_, .inl rfl⟩, ⟨_, rfl, fun m hm => ?_, .inl rfl⟩⟩
  · match m, hm with
    | 0, _ => exact ⟨_, rfl, rfl⟩
    | 1, _ => exact ⟨_, rfl, rfl⟩
  · match m, hm with
    | 0, _ => exact ⟨_, rfl, rfl⟩
    | 1, _ => exact ⟨_, rfl, rfl⟩
    | 2, _ => exact ⟨_, rfl, rfl⟩
    | 3, _ => exact ⟨_, rfl, rfl⟩

theorem witness_PackedSequenceLayout : 1 < 2 ∧ 1 < gpr 10 := by decide

/-- The last group of a row, with padding. -/
theorem witness_PackEightIsPackedByte : 0 < gpr 3 ∧ 1 < gpr 9 := by decide

theorem witness_TenStepsArePackEight :
    let s := busy 10 2 100 g10 1 1 .clr 0xFF
    EngineAlone s ∧ s.opState = .busy ∧ s.slot = .clr ∧ s.g < gpr s.width ∧ 0 ≤ s.threshold ∧ s.threshold ≤ 255 ∧
    s.width ≤ s.grid.w ∧ s.y < s.grid.h := by unfold EngineAlone; decide

theorem witness_RaisingThresholdClearsOnly : (0 : Int) ≤ 0 ∧ (0 : Int) ≤ 255 ∧ (255 : Int) ≤ 255 := by decide

theorem witness_ThresholdExtremes : (Grid.ofRows 2 [[255, 254]]).read 0 0 = some 0xFF ∧
    (Grid.ofRows 2 [[255, 254]]).read 1 0 = some 0xFE := by decide

end Sys2Proof.Tests
end

/-! ## The encoding (spec/30_encoding.md) -/

section
/-!
SUPPORT. Format U: a decoded word is an encoded micro-operation, the sequencer fetches nothing else, and so every word a
step takes decodes.
-/
namespace Sys2Proof.Machine

/-- A format U word with bit 3 clear is its two fields put together (R100). -/
theorem uWord_fields {w : BitVec 8} (h : uBit3 w = false) : uWord (uOp w) (uB w) = w := by
  have hbit : w.toNat / 8 % 2 = 0 := by
    simpa [uBit3, BitVec.getLsbD, Nat.testBit_eq_decide_div_mod_eq] using h
  apply BitVec.eq_of_toNat_eq
  simp only [uWord, uOp, uB, BitVec.toNat_ofNat]
  omega

theorem uPlain_eq_ok {b : Fin 8} {i j : Instr} : uPlain b i = .ok j ↔ b = 0 ∧ i = j := by
  unfold uPlain
  split <;> simp [*]

/-- Format U decodes to micro-operations only, and only from the word the encoder gives (R101, R106). -/
theorem encode_of_decodeU {w : BitVec 8} {i : Instr} (h : decodeU w = .ok i) : isUop i = true ∧ encode i = .u w := by
  unfold decodeU at h
  split at h
  · cases h
  · rename_i hop
    split at h
    · cases h
    · rename_i h3
      have hw : uWord (uOp w) (uB w) = w := uWord_fields (Bool.eq_false_iff.mpr h3)
      split at h
      case h_3 hn | h_4 hn =>
        cases h
        exact ⟨rfl, congrArg Code.u (hn ▸ hw)⟩
      case h_1 hn | h_2 hn | h_5 hn =>
        obtain ⟨hb, rfl⟩ := uPlain_eq_ok.mp h
        exact ⟨rfl, congrArg Code.u (hb ▸ hn ▸ hw)⟩
      case h_6 h1 h2 h3 h4 h5 =>
        have hn : uOp w = 6 := by
          simp only [imp_false] at h1 h2 h3 h4 h5
          omega
        obtain ⟨hb, rfl⟩ := uPlain_eq_ok.mp h
        exact ⟨rfl, congrArg Code.u (hb ▸ hn ▸ hw)⟩

/-- A micro-operation's word decodes to it, for every bit position (R101). -/
theorem decode_encode_uop {i : Instr} (h : isUop i = true) : decode (encode i) = .ok i := by
  cases i with
  | chk | clr | emit | fin => rfl
  | tst b | pad b => clear h; revert b; decide
  | rd | wr | start | nopc => cases h

/-- The micro-operation R160 names for a slot: TST at a column below the width, PAD at the others. -/
def slotUop (width g : Nat) : Slot → Instr
  | .chk => .chk
  | .clr => .clr
  | .bit b => if column g b < width then .tst b else .pad b
  | .emit => .emit
  | .fin => .fin

/-- The sequencer's word for a slot is the encoder's word for the micro-operation of that slot (R160). -/
theorem fetch_eq_encode (width g : Nat) (slot : Slot) : .u (fetch width g slot) = encode (slotUop width g slot) := by
  cases slot with
  | chk | clr | emit | fin => rfl
  | bit b =>
    rw [fetch_bit, slotUop]
    split <;> rfl

theorem isUop_slotUop (width g : Nat) (slot : Slot) : isUop (slotUop width g slot) = true := by
  cases slot with
  | chk | clr | emit | fin => rfl
  | bit b =>
    rw [slotUop]
    split <;> rfl

/-- The sequencer never produces an invalid word: what it fetches decodes to the micro-operation of the slot (R106). -/
theorem decode_fetchWord (s : State) : decode (.u (fetchWord s)) = .ok (slotUop s.width s.g s.slot) := by
  rw [fetchWord, fetch_eq_encode]
  exact decode_encode_uop (isUop_slotUop _ _ _)

/-- The only format U word a step takes is the fetched one: the host's words have the formats H and C. -/
theorem nextMove_uWord {s s' : State} {w : BitVec 8} (h : nextMove s = .run (.u w) s') : w = fetchWord s := by
  rcases nextMove_cases s with ⟨hm, -⟩ | ⟨hm, -⟩ | ⟨hm, -⟩ | ⟨-, -, hm, hne⟩
  · cases hm.symm.trans h
  · cases hm.symm.trans h
  · cases hm.symm.trans h
    rfl
  · rcases hostMove_cases s hne with ⟨_, _, -, hc⟩ | ⟨_, -, hc⟩ | ⟨-, hc⟩ | ⟨-, hc⟩ <;> cases (hm.trans hc).symm.trans h

/-- Every word a step takes decodes (R94, R102, R106). -/
theorem nextMove_decodes {s s' : State} {c : Code} (h : nextMove s = .run c s') : ∃ i, decode c = .ok i := by
  cases c with
  | u w => exact ⟨_, nextMove_uWord h ▸ decode_fetchWord s⟩
  | h addr data => exact ⟨_, rfl⟩
  | c w => exact ⟨_, rfl⟩

/-- Every step answers a next state: the engine has no illegal-instruction trap (R106). -/
theorem step_next (s : State) : ∃ t, step s = .next t := by
  cases hm : nextMove s with
  | reset s' => exact ⟨_, step_of_reset hm⟩
  | quiet => exact ⟨_, step_of_quiet hm⟩
  | run c s' =>
    obtain ⟨i, hd⟩ := nextMove_decodes hm
    obtain ⟨u, he⟩ := exec_next i s'
    exact ⟨_, step_of_run hm hd he⟩

/-- Outside BUSY the register UOP reads 0x00 (R106). -/
theorem readReg_uop_of_not_busy {s : State} (h : s.opState ≠ .busy) : readReg s .uop = 0 := if_neg h

/-- Settles O3. A decodable word is the encoding of a micro-operation, of which there are 20; the sequencer fetches only
such encodings, so no step meets another word. -/
theorem decoderAcceptsTwentyWords : Obligations.DecoderAcceptsTwentyWords := by
  refine ⟨fun w => ⟨?_, fun hw => ?_⟩, fun s => ⟨_, decode_fetchWord s⟩, fun s => readReg_uop_of_not_busy, ?_⟩
  · rintro ⟨i, hi⟩
    obtain ⟨hu, he⟩ := encode_of_decodeU hi
    cases i with
    | chk | clr | emit | fin => obtain rfl := Code.u.inj he; decide
    | tst b | pad b => obtain rfl := Code.u.inj he; clear hi hu he; revert b; decide
    | rd | wr | start | nopc => cases hu
  · fin_cases hw <;> exact ⟨_, rfl⟩
  · intro s w h
    obtain ⟨t, ht⟩ := step_next s
    cases ht.symm.trans h

end Sys2Proof.Machine
end

section
/-!
SUPPORT. Format C: a command word's bit 0 decides what it does, as a command and as the data of WR CTRL (R94).
-/
namespace Sys2Proof.Machine

/-- What a command does, by the START bit of its word (R94, R184, R185). -/
def commandEffect (w : BitVec 8) (s : State) : State := if w.getLsbD 0 then commandStart s else s

theorem decode_command (w : BitVec 8) :
    decode (.c w) = .ok (if w.getLsbD 0 then .start (w.extractLsb' 1 7) else .nopc (w.extractLsb' 1 7)) := rfl

/-- A START command in BUSY is discarded (R182, R184). -/
theorem commandStart_of_busy {s : State} (h : s.opState = .busy) : commandStart s = s := if_pos h

/-- A decoded command word has the effect of its START bit. -/
theorem exec_command {w : BitVec 8} {i : Instr} (h : decode (.c w) = .ok i) (s : State) :
    exec i s = .next (commandEffect w s) := by
  obtain rfl := Except.ok.inj ((decode_command w).symm.trans h)
  unfold commandEffect
  split
  · exact exec_start _ s
  · exact exec_nopc _ s

/-- A byte written to CTRL outside BUSY has the effect of its START bit (R181, R94). -/
theorem writeReg_ctrl (w : BitVec 8) (s : State) : writeReg s .ctrl w.toNat = commandEffect w s := by
  have hbit : w.getLsbD 0 = decide (w.toNat % 2 = 1) := by simp [BitVec.getLsbD, Nat.testBit_zero]
  rw [writeReg, dataPhase_eq (r := .ctrl) w.isLt, commandEffect, hbit]
  simp only [decide_eq_true_iff]

/-- WR CTRL has the effect of its data's START bit; in BUSY that is none, as the write is discarded (R182). -/
theorem exec_wr_ctrl (w : BitVec 8) (s : State) : exec (.wr .ctrl w.toNat) s = .next (commandEffect w s) := by
  rw [exec_wr, writeReg_ctrl]
  split
  · rename_i hb
    rw [commandEffect, commandStart_of_busy hb, ite_self]
  · rfl

/-- Settles O5. A word acts through its START bit alone, in both of its forms. -/
theorem commandWordBits : Obligations.CommandWordBits := by
  refine ⟨fun w => ⟨_, decode_command w⟩, fun w w' i i' s hbit hi hi' => ?_, fun w i s hi => ?_⟩
  · rw [exec_command hi, exec_command hi', commandEffect, commandEffect, hbit]
  · rw [exec_wr_ctrl, exec_command hi]

end Sys2Proof.Machine
end

/-! ## The contract of PACK (spec/40_pack_contract.md) -/

section
/-!
SUPPORT. The groups of a row and their place in the packed sequence (R66, R124, R125).
-/
namespace Sys2Proof.Machine

/-- Settles O38. Both forms of GPR are a quotient by 8, and `2^DIM_W` is 8 times `2^(DIM_W-3)`. -/
theorem groupsPerRow : Obligations.GroupsPerRow := by
  refine ⟨rfl, fun w n hn => ?_, fun w => ?_, fun w d hd hw => ?_⟩
  · unfold gpr
    omega
  · unfold gprAssembled gpr
    split <;> omega
  · have h8 : 2 ^ d = 2 ^ (d - 3) * 2 ^ 3 := by rw [← pow_add, Nat.sub_add_cancel hd]
    unfold gpr
    omega

/-- The number of groups up to and including group `g` of row `y` is at most BYTECOUNT. -/
theorem group_succ_le_byteCount {w h y g : Nat} (hy : y < h) (hg : g < gpr w) : y * gpr w + g + 1 ≤ byteCount w h :=
  calc y * gpr w + g + 1 ≤ y * gpr w + gpr w := by omega
    _ = (y + 1) * gpr w := by ring
    _ ≤ h * gpr w := Nat.mul_le_mul_right _ hy

/-- The packed sequence has BYTECOUNT elements (R125). -/
@[simp] theorem packedBytes_length (gr : Grid) (w h : Nat) (t : Int) : (packedBytes gr w h t).length = byteCount w h := by
  simp [packedBytes]

/-- Element `y * GPR + g` of the packed sequence is the byte of row `y`, group `g` (R66). -/
theorem packedBytes_getElem? (gr : Grid) {w h : Nat} (t : Int) {y g : Nat} (hy : y < h) (hg : g < gpr w) :
    (packedBytes gr w h t)[y * gpr w + g]? = some (packedByte gr w t y g) := by
  have hlt : y * gpr w + g < byteCount w h := group_succ_le_byteCount hy hg
  have hdiv : (y * gpr w + g) / gpr w = y := by
    rw [Nat.mul_comm, Nat.mul_add_div (by omega), Nat.div_eq_of_lt hg, Nat.add_zero]
  have hmod : (y * gpr w + g) % gpr w = g := by rw [Nat.mul_add_mod', Nat.mod_eq_of_lt hg]
  simp [packedBytes, hlt, hdiv, hmod]

end Sys2Proof.Machine
end

section
/-!
SUPPORT. The closed form of one byte (R126), one bit position after another, and its bits (R122, R123).
-/
namespace Sys2Proof.Machine

/-- Bit position `b` of row `y`, group `grp` is set: its column is below the width and its pixel is set (R126). -/
def bitSet (gr : Grid) (w : Nat) (t : Int) (y grp : Nat) (b : Fin 8) : Bool :=
  decide (column grp b < w) && pixel gr t (column grp b) y

/-- An accumulator that holds the first `b` contributions holds one more after bit position `b`'s write (R143, R144). -/
theorem accumulate_toNat {gr : Grid} {w : Nat} {t : Int} {y grp : Nat} {a : Byte} {b : Fin 8}
    (ha : a.toNat = partialByte gr w t y grp b) :
    (if bitSet gr w t y grp b then a ||| accMask b else a).toNat = partialByte gr w t y grp (b + 1) := by
  have hset : bitSet gr w t y grp b = true ↔ 8 * grp + b.val < w ∧ pixel gr t (8 * grp + b.val) y = true := by
    rw [bitSet, column, Bool.and_eq_true, decide_eq_true_iff]
  rw [partialByte, bitWeight, ← ha]
  split
  · rw [if_pos (hset.mp ‹_›), or_accMask_toNat a b (ha ▸ partialByte_dvd gr w t y grp b (by omega))]
  · rw [if_neg (mt hset.mpr ‹_›), Nat.add_zero]

/-- The first `n` contributions as a byte. -/
theorem ofNat_partialByte_toNat (gr : Grid) (w : Nat) (t : Int) (y grp : Nat) {n : Nat} (hn : n ≤ 8) :
    (BitVec.ofNat 8 (partialByte gr w t y grp n)).toNat = partialByte gr w t y grp n := by
  have hle := partialByte_le gr w t y grp n hn
  have hpos : 0 < 2 ^ (8 - n) := Nat.two_pow_pos _
  exact Nat.mod_eq_of_lt (by omega)

/-- After `n` contributions the bits of the positions below `n` are decided and the others are 0. -/
theorem ofNat_partialByte_getLsbD (gr : Grid) (w : Nat) (t : Int) (y grp : Nat) (b : Fin 8) (n : Nat) (hn : n ≤ 8) :
    (BitVec.ofNat 8 (partialByte gr w t y grp n)).getLsbD (7 - b) = (decide (b.val < n) && bitSet gr w t y grp b) := by
  induction n with
  | zero => simp [partialByte]
  | succ n ih =>
    have ih := ih (by omega)
    have hsucc : BitVec.ofNat 8 (partialByte gr w t y grp (n + 1)) = _ :=
      BitVec.eq_of_toNat_eq ((ofNat_partialByte_toNat gr w t y grp hn).trans
        (accumulate_toNat (b := ⟨n, hn⟩) (ofNat_partialByte_toNat gr w t y grp (by omega))).symm)
    rw [hsucc]
    by_cases hb : b.val = n
    · obtain rfl : b = ⟨n, hn⟩ := Fin.ext hb
      cases bitSet gr w t y grp ⟨n, hn⟩ <;> simp [ih, accMask_getLsbD]
    · have hbit : (accMask ⟨n, hn⟩).getLsbD (7 - b) = false := by
        rw [accMask_getLsbD, decide_eq_false_iff_not]
        dsimp only
        omega
      have hlt : (b.val < n + 1) = (b.val < n) := by rw [eq_iff_iff]; omega
      simp only [hlt, ← ih]
      split
      · rw [BitVec.getLsbD_or, hbit, Bool.or_false]
      · rfl

/-- Bit `7 - b` of a packed byte is 1 exactly when bit position `b` is set (R122, R126). -/
theorem packedByte_getLsbD (gr : Grid) (w : Nat) (t : Int) (y grp : Nat) (b : Fin 8) :
    (packedByte gr w t y grp).getLsbD (7 - b) = bitSet gr w t y grp b := by
  rw [packedByte, ofNat_partialByte_getLsbD gr w t y grp b 8 le_rfl, decide_eq_true b.isLt, Bool.true_and]

/-- With a legal threshold the test of TST decides the bit position (R121, R143). -/
theorem bitSet_eq_sampleSet {gr : Grid} {w : Nat} {t : Int} {y g : Nat} {b : Fin 8} {v : Byte}
    (ht : thresholdLegal t = true) (hx : column g b < w) (hv : gr.read (column g b) y = some v) :
    bitSet gr w t y g b = sampleSet t v := by
  rw [sampleSet_legal ht, bitSet, decide_eq_true hx, Bool.true_and, pixel, hv]

theorem bitSet_of_padding (gr : Grid) {w : Nat} (t : Int) (y : Nat) {g : Nat} {b : Fin 8} (hx : ¬ column g b < w) :
    bitSet gr w t y g b = false := by
  rw [bitSet, decide_eq_false hx, Bool.false_and]

/-- A pixel set at a threshold is set at every lower one (R130). -/
theorem pixel_antitone {gr : Grid} {t1 t2 : Int} {x y : Nat} (ht : t1 ≤ t2) (h : pixel gr t2 x y = true) :
    pixel gr t1 x y = true := by
  unfold pixel at h ⊢
  cases hr : gr.read x y with
  | none => rw [hr] at h; exact h
  | some v =>
    rw [hr] at h
    exact decide_eq_true (ht.trans (of_decide_eq_true h))

theorem bitSet_antitone {gr : Grid} {w : Nat} {t1 t2 : Int} {y grp : Nat} {b : Fin 8} (ht : t1 ≤ t2)
    (h : bitSet gr w t2 y grp b = true) : bitSet gr w t1 y grp b = true := by
  obtain ⟨hw, hp⟩ := (Bool.and_eq_true _ _).mp h
  exact (Bool.and_eq_true _ _).mpr ⟨hw, pixel_antitone ht hp⟩

/-- Settles O59. Bit by bit: a bit position set at the higher threshold is set at the lower one. -/
theorem raisingThresholdClearsOnly : Obligations.RaisingThresholdClearsOnly := by
  intro gr w h t1 t2 _ ht _
  refine ⟨fun y grp => BitVec.eq_of_getLsbD_eq fun j hj => ?_, by simp only [packedBytes_length]⟩
  obtain ⟨b, rfl⟩ : ∃ b : Fin 8, j = 7 - b.val := ⟨⟨7 - j, by omega⟩, by dsimp only; omega⟩
  rw [BitVec.getLsbD_and, BitVec.getLsbD_not, packedByte_getLsbD, packedByte_getLsbD]
  have hmono : bitSet gr w t2 y grp b = true → bitSet gr w t1 y grp b = true := bitSet_antitone ht
  cases h2 : bitSet gr w t2 y grp b with
  | false => simp
  | true => simp [hmono h2]

end Sys2Proof.Machine
end

section
/-!
SUPPORT. The engine left alone (R243): each step in BUSY is the micro-operation of the slot and nothing else.
-/
namespace Sys2Proof.Machine

/-- What no micro-operation writes: the inputs of a pack and the input levels. -/
def KeepsInputs (s u : State) : Prop := SameInputs s u ∧ u.pins = s.pins ∧ u.pinsLater = s.pinsLater

theorem nextGroup_keeps (s : State) : KeepsInputs s (nextGroup s) := by
  rcases nextGroup_cases s with ⟨-, h⟩ | ⟨-, -, h⟩ | ⟨-, -, h⟩ <;> rw [h] <;>
    exact ⟨⟨rfl, rfl, rfl, rfl⟩, rfl, rfl⟩

theorem exec_uop_keeps {i : Instr} {s u : State} (hi : isUop i = true) (he : exec i s = .next u) : KeepsInputs s u := by
  cases i with
  | chk | clr | pad b | fin =>
    cases he
    split_ifs <;> exact ⟨⟨rfl, rfl, rfl, rfl⟩, rfl, rfl⟩
  | tst b =>
    rw [exec_tst] at he
    simp only [testSample_eq] at he
    cases he
    split_ifs
    · split <;> exact ⟨⟨rfl, rfl, rfl, rfl⟩, rfl, rfl⟩
    · exact ⟨⟨rfl, rfl, rfl, rfl⟩, rfl, rfl⟩
  | emit =>
    cases he
    split_ifs
    · exact nextGroup_keeps (countByte (sendByte s s.acc))
    · exact ⟨⟨rfl, rfl, rfl, rfl⟩, rfl, rfl⟩
    · exact ⟨⟨rfl, rfl, rfl, rfl⟩, rfl, rfl⟩
  | rd | wr | start | nopc => cases hi

/-- With no later levels listed the levels hold. -/
theorem tick_of_pinsLater_nil {s : State} (h : s.pinsLater = []) : tick s = s := by
  cases s
  cases h
  rfl

theorem nextMove_of_alone {s : State} (ha : EngineAlone s) (hb : s.opState = .busy) :
    nextMove s = .run (.u (fetchWord s)) s := by
  simp [nextMove, hostTurn, ha.1, hb, Pins.quiet]

/-- In BUSY a step of the engine left alone is the micro-operation of its slot. -/
theorem step_of_alone {s : State} (ha : EngineAlone s) (hb : s.opState = .busy) :
    step s = exec (slotUop s.width s.g s.slot) s := by
  obtain ⟨u, hu⟩ := exec_next (slotUop s.width s.g s.slot) s
  obtain ⟨-, -, hl⟩ := exec_uop_keeps (isUop_slotUop _ _ _) hu
  rw [step_of_run (nextMove_of_alone ha hb) (decode_fetchWord s) hu, tick_of_pinsLater_nil (hl.trans ha.2), hu]

theorem samplePort_of_alone {s : State} {x y : Nat} {v : Byte} (ha : EngineAlone s) (hv : s.grid.read x y = some v) :
    samplePort s x y = .ok v := by
  simp [samplePort, ha.1, Pins.quiet, hv]

/-- TST with its sample answered, as one update of the accumulator and pc (R143). -/
theorem exec_tst_of_ok {s : State} {b : Fin 8} {v : Byte} (hb : s.opState = .busy)
    (hv : samplePort s (column s.g b) s.y = .ok v) :
    exec (.tst b) s = .next (setPc (setAcc (logSample s (column s.g b) s.y)
      (if sampleSet s.threshold v then s.acc ||| accMask b else s.acc)) s.y s.g (nextSlot b)) := by
  rw [exec_tst, if_pos hb, hv]
  dsimp only
  rw [testSample_eq]
  rfl

theorem sameInputs_of_alone {s t : State} (ha : EngineAlone s) (hb : s.opState = .busy) (h : step s = .next t) :
    SameInputs s t :=
  (exec_uop_keeps (isUop_slotUop _ _ _) ((step_of_alone ha hb).symm.trans h)).1

theorem engineAlone_acceptStart {s : State} (h : EngineAlone s) : EngineAlone (acceptStart s) := h

/-- STATUS reads 0x07 after PARAM: cause 1, state 3 (R42). -/
theorem readReg_status_raiseError_param (s : State) : readReg (raiseError .param s) .status = 0x07 := by
  rw [readReg, statusWord, raiseError_err, raiseError_opState]
  rfl

/-- Settles O52. The one step is CHK, which raises PARAM whatever the dimensions are. -/
theorem illegalThresholdStopsAtOnce : Obligations.IllegalThresholdStopsAtOnce := by
  intro s ha _ ht
  have hill : ¬ thresholdLegal s.threshold = true := by
    rw [thresholdLegal_iff]
    omega
  have hstep : step (acceptStart s) = .next (raiseError .param (acceptStart s)) := by
    rw [step_of_alone (engineAlone_acceptStart ha) rfl, acceptStart_slot, slotUop, exec_chk, if_pos (acceptStart_opState s),
      acceptStart_threshold, if_neg hill]
  exact ⟨_, runFor_succ 0 hstep, readReg_status_raiseError_param _, rfl, rfl, rfl, rfl, rfl, by simp⟩

end Sys2Proof.Machine
end

section
/-!
SUPPORT. A successful pack (R134): a running pack keeps an invariant that counts its remaining steps.
-/
namespace Sys2Proof.Machine

/-- The steps a pack has done when it stands at a slot, beyond the ten of each byte it has appended (R245). -/
def Slot.stepsDone : Slot → Nat
  | .chk => 0
  | .clr => 1
  | .bit b => b.val + 2
  | .emit => 10
  | .fin => 1

theorem nextSlot_ne_chk (b : Fin 8) : nextSlot b ≠ .chk := by unfold nextSlot; split <;> nofun

theorem nextSlot_ne_fin (b : Fin 8) : nextSlot b ≠ .fin := by unfold nextSlot; split <;> nofun

@[simp] theorem nextSlot_bitsDone (b : Fin 8) : (nextSlot b).bitsDone = some (b.val + 1) := by
  unfold nextSlot
  split
  · rfl
  · exact congrArg some (by omega)

@[simp] theorem nextSlot_stepsDone (b : Fin 8) : (nextSlot b).stepsDone = b.val + 3 := by
  unfold nextSlot
  split
  · rfl
  · simp only [Slot.stepsDone]; omega

/-- The entry of a pack: FIN when there is no byte, else the first group, which then exists (R162). -/
theorem firstSlot_cases (w h : Nat) :
    (byteCount w h = 0 ∧ firstSlot w h = .fin) ∨ (0 < h ∧ 0 < gpr w ∧ firstSlot w h = .clr) := by
  unfold firstSlot byteCount
  split
  · exact .inl ⟨Nat.mul_eq_zero.mpr ‹_›, rfl⟩
  · exact .inr ⟨by omega, by omega, rfl⟩

/-- Every sample of a covered pack is answered `ok` (R62, R84). -/
theorem read_of_gridCovers {gr : Grid} {w h x y : Nat} (hc : gridCovers gr w h = true) (hx : x < w) (hy : y < h) :
    ∃ v, gr.read x y = some v := by
  have hwh : w ≤ gr.w ∧ h ≤ gr.h := by
    simp only [gridCovers, Bool.or_eq_true, Bool.and_eq_true, decide_eq_true_iff] at hc
    omega
  exact ⟨_, (Grid.read_eq_some gr x y _).mpr ⟨by omega, rfl⟩⟩

/-- A consistent grid covers the pack (R238). -/
theorem gridCovers_of_consistent {s : State} (h : GridConsistent s) : gridCovers s.grid s.width s.height = true := by
  obtain ⟨hw, hh⟩ := h
  simp [gridCovers, hw, hh]

/-- A pack in BUSY with a legal threshold, left alone, `n` steps before DONE if every sample is answered `ok`. -/
structure Packing (n : Nat) (s : State) : Prop where
  alone : EngineAlone s
  busy : s.opState = .busy
  noError : s.err = .none
  legal : thresholdLegal s.threshold = true
  atChk : s.slot = .chk → s.k = 0
  inGroup : s.slot.inGroup = true → s.y < s.height ∧ s.g < gpr s.width ∧ s.k = s.y * gpr s.width + s.g
  atFin : s.slot = .fin → s.k = byteCount s.width s.height
  accHolds : ∀ m, s.slot.bitsDone = some m → s.acc.toNat = partialByte s.grid s.width s.threshold s.y s.g m
  outPrefix : s.out = (packedBytes s.grid s.width s.height s.threshold).take s.k
  stepsLeft : n + s.slot.stepsDone + 10 * s.k = 10 * byteCount s.width s.height + 2

/-- An accepted START with a legal threshold begins a pack of `10 * BYTECOUNT + 2` steps. -/
theorem packing_acceptStart {s : State} (ha : EngineAlone s) (ht : thresholdLegal s.threshold = true) :
    Packing (packSteps s.width s.height) (acceptStart s) where
  alone := engineAlone_acceptStart ha
  busy := rfl
  noError := rfl
  legal := ht
  atChk _ := rfl
  inGroup h := by cases h
  atFin h := by cases h
  accHolds m h := by cases h
  outPrefix := rfl
  stepsLeft := rfl

/-- A pack in BUSY still has a step to do. -/
theorem Packing.pos {n : Nat} {s : State} (h : Packing n s) : 0 < n := by
  have hleft := h.stepsLeft
  have hgroup : s.slot.inGroup = true → s.k + 1 ≤ byteCount s.width s.height := by
    intro hs
    obtain ⟨hy, hg, hk⟩ := h.inGroup hs
    exact hk ▸ group_succ_le_byteCount hy hg
  cases hs : s.slot with
  | chk =>
    have hk := h.atChk hs
    rw [hs, Slot.stepsDone] at hleft
    omega
  | fin =>
    have hk := h.atFin hs
    rw [hs, Slot.stepsDone] at hleft
    omega
  | clr | bit b | emit =>
    have hk := hgroup (hs ▸ rfl)
    rw [hs, Slot.stepsDone] at hleft
    omega

section
variable {n : Nat} {s : State}

/-- CHK lets a legal threshold pass to the entry of the pack (R141, R162). -/
theorem Packing.chk (h : Packing (n + 1) s) (hs : s.slot = .chk) :
    step s = .next (setPc s 0 0 (firstSlot s.width s.height)) ∧ Packing n (setPc s 0 0 (firstSlot s.width s.height)) := by
  have hk := h.atChk hs
  have hleft := h.stepsLeft
  rw [hs, Slot.stepsDone] at hleft
  have hleft' : n + 1 + 10 * s.k = 10 * byteCount s.width s.height + 2 := by omega
  constructor
  · rw [step_of_alone h.alone h.busy, hs, slotUop, exec_chk, if_pos h.busy, if_pos h.legal]
  · rcases firstSlot_cases s.width s.height with ⟨h0, hf⟩ | ⟨hh, hg, hf⟩ <;> rw [hf]
    · exact { h with
        atChk := nofun, inGroup := nofun, accHolds := nofun
        atFin := fun _ => hk.trans h0.symm, stepsLeft := hleft' }
    · exact { h with
        atChk := nofun, atFin := nofun, accHolds := nofun
        inGroup := fun _ => ⟨hh, hg, by simp [hk]⟩, stepsLeft := hleft' }

/-- CLR clears the accumulator for the eight bit positions (R142). -/
theorem Packing.clr (h : Packing (n + 1) s) (hs : s.slot = .clr) :
    step s = .next (setPc (setAcc s 0) s.y s.g (.bit 0)) ∧ Packing n (setPc (setAcc s 0) s.y s.g (.bit 0)) := by
  have hleft := h.stepsLeft
  rw [hs, Slot.stepsDone] at hleft
  have hleft' : n + 2 + 10 * s.k = 10 * byteCount s.width s.height + 2 := by omega
  refine ⟨?_, { h with
    atChk := nofun, atFin := nofun, inGroup := fun _ => h.inGroup (hs ▸ rfl), accHolds := ?_, stepsLeft := hleft' }⟩
  · rw [step_of_alone h.alone h.busy, hs, slotUop, exec_clr, if_pos h.busy]
  · rintro m ⟨⟩
    rfl

theorem packing_logSample (h : Packing n s) (x y : Nat) : Packing n (logSample s x y) := { h with }

/-- A bit slot ends with the accumulator holding one more contribution (R51 (e), R164). -/
theorem Packing.accumulate (h : Packing (n + 1) s) {b : Fin 8} (hs : s.slot = .bit b) :
    Packing n (setPc (setAcc s (if bitSet s.grid s.width s.threshold s.y s.g b then s.acc ||| accMask b else s.acc))
      s.y s.g (nextSlot b)) := by
  have hleft := h.stepsLeft
  rw [hs, Slot.stepsDone] at hleft
  refine { h with
    atChk := fun hc => absurd hc (nextSlot_ne_chk b), atFin := fun hc => absurd hc (nextSlot_ne_fin b)
    inGroup := fun _ => h.inGroup (hs ▸ rfl), accHolds := fun m hm => ?_, stepsLeft := ?_ }
  · rw [setPc_slot, nextSlot_bitsDone] at hm
    cases hm
    exact accumulate_toNat (h.accHolds b.val (hs ▸ rfl))
  · simp only [setPc_slot, setPc_k, setPc_width, setPc_height, setAcc_k, setAcc_width, setAcc_height, nextSlot_stepsDone]
    omega

/-- A bit slot is TST with its sample answered, or PAD (R143, R144). -/
theorem Packing.bit (h : Packing (n + 1) s) (hc : gridCovers s.grid s.width s.height = true) {b : Fin 8}
    (hs : s.slot = .bit b) : ∃ t, step s = .next t ∧ Packing n t := by
  rw [step_of_alone h.alone h.busy, hs, slotUop]
  by_cases hx : column s.g b < s.width
  · obtain ⟨hy, -, -⟩ := h.inGroup (hs ▸ rfl)
    obtain ⟨v, hv⟩ := read_of_gridCovers hc hx hy
    have hacc := (packing_logSample h (column s.g b) s.y).accumulate hs
    have hset := bitSet_eq_sampleSet h.legal hx hv
    rw [if_pos hx, exec_tst_of_ok h.busy (samplePort_of_alone h.alone hv)]
    refine ⟨_, rfl, ?_⟩
    rw [logSample_grid, logSample_width, logSample_threshold, logSample_y, logSample_g, hset] at hacc
    exact hacc
  · have hacc := h.accumulate hs
    rw [bitSet_of_padding _ _ _ hx] at hacc
    rw [if_neg hx, exec_pad, if_pos h.busy]
    exact ⟨_, rfl, hacc⟩

/-- EMIT appends the group's byte, and the next group, if there is one, begins (R145, R165). -/
theorem Packing.emit (h : Packing (n + 1) s) (hs : s.slot = .emit) : ∃ t, step s = .next t ∧ Packing n t := by
  obtain ⟨hy, hg, hk⟩ := h.inGroup (hs ▸ rfl)
  have hleft := h.stepsLeft
  rw [hs, Slot.stepsDone] at hleft
  have hacc : s.acc = packedByte s.grid s.width s.threshold s.y s.g := by
    rw [packedByte, ← h.accHolds 8 (hs ▸ rfl), BitVec.ofNat_toNat, BitVec.setWidth_eq]
  have hout : s.out ++ [s.acc] = (packedBytes s.grid s.width s.height s.threshold).take (s.k + 1) := by
    rw [List.take_add_one, ← h.outPrefix, hk, packedBytes_getElem? _ _ hy hg, hacc, Option.toList_some]
  have hleft' : n + 1 + 10 * (s.k + 1) = 10 * byteCount s.width s.height + 2 := by omega
  have hfull : gpr s.width ≤ s.g + 1 → s.k + 1 = (s.y + 1) * gpr s.width := by
    intro hlast
    rw [Nat.succ_mul]
    omega
  refine ⟨nextGroup (countByte (sendByte s s.acc)), ?_, ?_⟩
  · rw [step_of_alone h.alone h.busy, hs, slotUop, exec_emit, if_pos h.busy, h.alone.1]
    rfl
  · rcases nextGroup_cases (countByte (sendByte s s.acc)) with ⟨hnext, hpc⟩ | ⟨hlast, hrow, hpc⟩ |
      ⟨hlast, hend, hpc⟩ <;> rw [hpc]
    · exact { h with
        atChk := nofun, atFin := nofun, accHolds := nofun
        outPrefix := hout, inGroup := fun _ => ⟨hy, hnext, congrArg (· + 1) hk⟩, stepsLeft := hleft' }
    · exact { h with
        atChk := nofun, atFin := nofun, accHolds := nofun
        outPrefix := hout, inGroup := fun _ => ⟨hrow, Nat.zero_lt_of_lt hg, hfull hlast⟩, stepsLeft := hleft' }
    · have hk' : s.k + 1 = byteCount s.width s.height := by
        have hh : s.height = s.y + 1 := Nat.le_antisymm hend hy
        rw [byteCount, hh, hfull hlast]
      exact { h with
        atChk := nofun, inGroup := nofun, accHolds := nofun
        outPrefix := hout, atFin := fun _ => hk', stepsLeft := hleft' }

/-- A step before the last one keeps the pack running, with one step less to do. -/
theorem Packing.next (h : Packing (n + 1) s) (hc : gridCovers s.grid s.width s.height = true) (hf : s.slot ≠ .fin) :
    ∃ t, step s = .next t ∧ Packing n t := by
  cases hs : s.slot with
  | chk => exact ⟨_, h.chk hs⟩
  | clr => exact ⟨_, h.clr hs⟩
  | bit b => exact h.bit hc hs
  | emit => exact h.emit hs
  | fin => exact absurd hs hf

/-- FIN is the last step, and every byte has been appended before it (R146, R165). -/
theorem Packing.fin (h : Packing (n + 1) s) (hs : s.slot = .fin) :
    n = 0 ∧ step s = .next (sendCommit { s with opState := .done }) ∧
      s.out = packedBytes s.grid s.width s.height s.threshold := by
  have hk := h.atFin hs
  have hleft := h.stepsLeft
  rw [hs, Slot.stepsDone] at hleft
  have huop : slotUop s.width s.g s.slot = .fin := congrArg (slotUop s.width s.g) hs
  refine ⟨by omega, ?_, ?_⟩
  · rw [step_of_alone h.alone h.busy, huop, exec_fin, if_pos h.busy]
  · rw [h.outPrefix, hk, List.take_of_length_le (packedBytes_length _ _ _ _).le]

end

/-- What a successful pack presents at its end (R134). -/
def PackedTo (g : Grid) (w h : Nat) (thr : Int) (t : State) : Prop :=
  t.opState = .done ∧ t.err = .none ∧ t.out = packedBytes g w h thr ∧ t.k = byteCount w h

/-- A running pack whose samples are all answered `ok` ends in DONE when its steps are done, with the closed form. -/
theorem Packing.ends {n : Nat} {s : State} (h : Packing n s) (hc : gridCovers s.grid s.width s.height = true) :
    ∃ t, PackEnds n s t ∧ PackedTo s.grid s.width s.height s.threshold t := by
  induction n generalizing s with
  | zero => exact absurd h.pos (lt_irrefl 0)
  | succ n ih =>
    by_cases hs : s.slot = .fin
    · obtain ⟨rfl, hstep, hout⟩ := h.fin hs
      have hend : PackEnds 0 (sendCommit { s with opState := .done }) _ := ⟨rfl, nofun, .inl rfl⟩
      exact ⟨_, hend.succ h.busy hstep, rfl, h.noError, hout, h.atFin hs⟩
    · obtain ⟨u, hstep, hu⟩ := h.next hc hs
      obtain ⟨hg, hw, hh, ht⟩ := sameInputs_of_alone h.alone h.busy hstep
      obtain ⟨t, hend, hp⟩ := ih hu (hg ▸ hw ▸ hh ▸ hc)
      exact ⟨t, hend.succ h.busy hstep, by rwa [hg, hw, hh, ht]⟩

/-- Settles O49. The accepted START begins a running pack, every step of which keeps the invariant `Packing` until FIN. -/
theorem successfulPackExactSteps : Obligations.SuccessfulPackExactSteps := by
  intro s ha _ hg h0 h255
  have hpack := packing_acceptStart ha ((thresholdLegal_iff _).mpr ⟨h0, h255⟩)
  obtain ⟨t, ⟨hrun, hbusy, -⟩, hdone⟩ := hpack.ends (gridCovers_of_consistent hg)
  exact ⟨hbusy, t, hrun, hdone⟩

end Sys2Proof.Machine
end

/-! ## The sequencer (spec/42_sequencer.md) -/

section
/-!
SUPPORT. The fetch table by its word values (R160), and the successors of CHK and CLR (R162, R163).
-/
namespace Sys2Proof.Machine

/-- The value of a format U word whose operation fits its four bits (R100). -/
theorem uWord_toNat {op : Nat} (h : op < 16) (b : Fin 8) : (uWord op b).toNat = 16 * op + b.val := by
  rw [uWord, BitVec.toNat_ofNat]
  omega

/-- A bit slot inside the row fetches TST b (R160). -/
theorem fetch_bit_of_lt {w g : Nat} {b : Fin 8} (h : column g b < w) : (fetch w g (.bit b)).toNat = 0x30 + b.val := by
  rw [fetch_bit, if_pos h, uWord_toNat (by decide)]

/-- A bit slot past the end of the row fetches PAD b (R160). -/
theorem fetch_bit_of_ge {w g : Nat} {b : Fin 8} (h : w ≤ column g b) : (fetch w g (.bit b)).toNat = 0x40 + b.val := by
  rw [fetch_bit, if_neg h.not_gt, uWord_toNat (by decide)]

/-- `fetch` has no argument but WIDTH, G and S (R160). -/
theorem fetchWord_congr {s t : State} (hw : s.width = t.width) (hg : s.g = t.g) (hs : s.slot = t.slot) :
    fetchWord s = fetchWord t := by
  rw [fetchWord, fetchWord, hw, hg, hs]

/-- Settles O6. The words of the bit slots are split at the width; each of the table's words is the encoding of its
micro-operation, and so decodes to it. -/
theorem fetchTable : Obligations.FetchTable :=
  ⟨fun _ _ => ⟨rfl, rfl, rfl, rfl⟩, fun _ _ _ => fetch_bit_of_lt, fun _ _ _ => fetch_bit_of_ge,
    ⟨decode_encode_uop (i := .chk) rfl, decode_encode_uop (i := .clr) rfl, decode_encode_uop (i := .emit) rfl,
      decode_encode_uop (i := .fin) rfl,
      fun b => ⟨decode_encode_uop (i := .tst b) rfl, decode_encode_uop (i := .pad b) rfl⟩⟩,
    fun _ _ => fetchWord_congr⟩

/-- `first_pc` by the two sides of the grid: a row has no group only if it has no column (R162). -/
theorem firstSlot_eq (w h : Nat) : firstSlot w h = if h = 0 ∨ w = 0 then .fin else .clr := by
  simp only [firstSlot, gpr_eq_zero]

/-- Settles O15. CHK tests exactly the range 0..255 and goes to `first_pc` or to error entry. -/
theorem chkValidatesThreshold : Obligations.ChkValidatesThreshold := by
  refine ⟨fun s hb h0 h255 => ?_, fun s hb ht => ?_⟩
  · have hlegal : thresholdLegal s.threshold = true := (thresholdLegal_iff _).mpr ⟨h0, h255⟩
    rw [exec_chk, if_pos hb, if_pos hlegal, firstSlot_eq]
    rfl
  · have hill : ¬ thresholdLegal s.threshold = true := by
      rw [thresholdLegal_iff]
      omega
    rw [exec_chk, if_pos hb, if_neg hill]
    rfl

/-- Settles O16. In BUSY CLR is the accumulator write and the move of pc to BIT0, with Y and G as they were. -/
theorem clrClearsAccumulator : Obligations.ClrClearsAccumulator := by
  intro s hb
  rw [exec_clr, if_pos hb]
  rfl

end Sys2Proof.Machine
end

/-! ## The host operations (spec/43_host_ops.md) -/

section
/-!
SUPPORT. What a read returns and what a write and a command do, by the register and by whether STATE is BUSY (R180 to
R185).
-/
namespace Sys2Proof.Machine

/-- RD hands the register's value to the host and does nothing else (R180). -/
theorem exec_rd_of_readReg {s : State} {r : Reg} {v : Nat} (h : readReg s r = v) :
    exec (.rd r) s = .next { s with reads := s.reads ++ [⟨r, v⟩] } := by
  rw [exec_rd, h, logRead]

/-- Settles O26. STATUS is a number by its two codes, THRESHOLD by two's complement; every other register reads as the
model stores or derives it. -/
theorem rdReturnsRegister : Obligations.RdReturnsRegister := by
  intro s r
  apply exec_rd_of_readReg
  cases r with
  | status =>
    rw [readReg, statusWord]
    cases s.err <;> cases s.opState <;> rfl
  | threshold => exact thresholdToBits_eq s.params s.threshold
  | ctrl | width | height | bytecount | outcount | uop => rfl

section
variable {s : State}

/-- A write made in BUSY is discarded (R182). -/
theorem exec_wr_of_busy (hb : s.opState = .busy) (r : Reg) (v : Nat) : exec (.wr r v) s = .next s := by
  rw [exec_wr, if_pos hb]

/-- Outside BUSY a write is the register's own (R181). -/
theorem exec_wr_of_not_busy (hb : s.opState ≠ .busy) (r : Reg) (v : Nat) : exec (.wr r v) s = .next (writeReg s r v) := by
  rw [exec_wr, if_neg hb]

/-- A START made in BUSY is discarded (R182). -/
theorem exec_start_of_busy (hb : s.opState = .busy) (rsv : BitVec 7) : exec (.start rsv) s = .next s := by
  rw [exec_start, if_pos hb]

/-- Outside BUSY a START is accepted, whatever its ignored bits are (R184). -/
theorem exec_start_of_not_busy (hb : s.opState ≠ .busy) (rsv : BitVec 7) :
    exec (.start rsv) s = .next (acceptStart s) := by
  rw [exec_start, if_neg hb]

/-- A START command outside BUSY is accepted (R184). -/
theorem commandStart_of_not_busy (hb : s.opState ≠ .busy) : commandStart s = acceptStart s := if_neg hb

end

/-- A number that fits CTRL is a START when it is odd and nothing when it is even (R94, R181). -/
theorem exec_wr_ctrl_of_lt {v : Nat} (hv : v < 2 ^ 8) (s : State) :
    exec (.wr .ctrl v) s = .next (if v % 2 = 1 then commandStart s else s) := by
  obtain ⟨w, rfl⟩ : ∃ w : BitVec 8, w.toNat = v := ⟨BitVec.ofNat 8 v, Nat.mod_eq_of_lt hv⟩
  rw [exec_wr_ctrl, commandEffect, BitVec.getLsbD, Nat.testBit_zero]
  simp only [decide_eq_true_iff]

/-- A read-only register discards a write in every state (R183). -/
theorem exec_wr_readOnly {r : Reg} (hr : r ∈ [Reg.status, .bytecount, .outcount, .uop]) (s : State) (v : Nat) :
    exec (.wr r v) s = .next s := by
  have hw : writeReg s r v = s := by fin_cases hr <;> rfl
  rw [exec_wr, hw, ite_self]

/-- Settles O27. CTRL is the command of its bit 0; a parameter register takes a value that fits it whole, THRESHOLD with
the sign of its top bit. -/
theorem wrWritesRegister : Obligations.WrWritesRegister := by
  refine ⟨fun s r v hb => exec_wr_of_busy hb r v, fun s v hb hv => ?_, fun s v hb hv => ⟨?_, ?_⟩,
    fun s v hb hp hv => ?_, fun s r v hr => exec_wr_readOnly hr s v⟩
  · rw [exec_wr_ctrl_of_lt hv, commandStart_of_not_busy hb]
    rfl
  · rw [exec_wr_of_not_busy hb, writeReg, dataPhase_eq (r := .width) hv, setWidth]
  · rw [exec_wr_of_not_busy hb, writeReg, dataPhase_eq (r := .height) hv, setHeight]
  · rw [exec_wr_of_not_busy hb, writeReg, thresholdOfBits_eq hp hv, setThreshold]

/-- Settles O28. Neither a write nor a START gets past BUSY. -/
theorem busyDiscardsWrites : Obligations.BusyDiscardsWrites :=
  fun _ r v rsv hb => ⟨exec_wr_of_busy hb r v, exec_start_of_busy hb rsv⟩

/-- Settles O30. The accepted START is `acceptStart`, in every state but BUSY. -/
theorem startBeginsPack : Obligations.StartBeginsPack :=
  ⟨fun _ rsv hb => exec_start_of_not_busy hb rsv, fun _ rsv hb => exec_start_of_busy hb rsv⟩

/-- Settles O31. An even value has bit 0 clear, so as data of WR CTRL it is no START, in BUSY and outside. -/
theorem nopcDoesNothing : Obligations.NopcDoesNothing := by
  refine ⟨fun s rsv => exec_nopc rsv s, fun s v hv h0 => ?_⟩
  rw [exec_wr_ctrl_of_lt hv, if_neg (by omega)]

end Sys2Proof.Machine
end

/-! ## Exceptions (spec/60_exceptions.md) -/

section
/-!
SUPPORT. The level `irq` (R208): what writes ERR, and what keeps STATE and so the level.
-/
namespace Sys2Proof.Machine

theorem irq_iff (s : State) : irq s = true ↔ s.opState = .done ∨ s.opState = .error := by
  rw [irq, Bool.or_eq_true, decide_eq_true_iff, decide_eq_true_iff]

/-- `irq` is a function of STATE alone (R208). -/
theorem irq_congr {s t : State} (h : t.opState = s.opState) : irq t = irq s := by rw [irq, irq, h]

@[simp] theorem irq_popScript (s : State) : irq (popScript s) = irq s := irq_congr rfl

@[simp] theorem irq_tick (s : State) : irq (tick s) = irq s := irq_congr rfl

theorem irq_of_busy {s : State} (h : s.opState = .busy) : irq s = false := by rw [irq, h]; rfl

@[simp] theorem irq_raiseError (e : Err) (s : State) : irq (raiseError e s) = true := rfl

theorem nextGroup_err (s : State) : (nextGroup s).err = s.err := by
  rcases nextGroup_cases s with ⟨-, h⟩ | ⟨-, -, h⟩ | ⟨-, -, h⟩ <;> rw [h, setPc_err]

/-- ERR in `t` is that of `s`, or `t` is an accepted START from `s` or an error entry (R184, R204). -/
def ErrKeptOrWritten (s t : State) : Prop := t.err = s.err ∨ t = acceptStart s ∨ ∃ e u, t = raiseError e u

theorem errKeptOrWritten_commandStart (s : State) : ErrKeptOrWritten s (commandStart s) := by
  unfold commandStart
  split
  · exact .inl rfl
  · exact .inr (.inl rfl)

theorem errKeptOrWritten_writeReg (s : State) (r : Reg) (v : Nat) : ErrKeptOrWritten s (writeReg s r v) := by
  rcases writeReg_cases s r v with h | h | h | h | h <;> rw [h]
  case inr.inl => exact errKeptOrWritten_commandStart s
  all_goals exact .inl rfl

/-- ERR is written by an accepted START and by error entry only (R32). -/
theorem exec_err_cases {i : Instr} {s t : State} (h : exec i s = .next t) : ErrKeptOrWritten s t := by
  cases i with
  | chk =>
    cases (exec_chk s).symm.trans h
    split_ifs
    · exact .inl rfl
    · exact .inr (.inr ⟨_, _, rfl⟩)
    · exact .inl rfl
  | tst b =>
    cases (exec_tst b s).symm.trans h
    split
    · split
      · exact .inl rfl
      · exact .inr (.inr ⟨_, _, rfl⟩)
      · rw [testSample_eq]
        exact .inl rfl
    · exact .inl rfl
  | emit =>
    cases (exec_emit s).symm.trans h
    split_ifs
    · exact .inl (nextGroup_err _)
    · exact .inl rfl
    · exact .inl rfl
  | clr | pad b | fin =>
    cases h
    split <;> exact .inl rfl
  | rd r | nopc rsv =>
    cases h
    exact .inl rfl
  | wr r v =>
    cases (exec_wr r v s).symm.trans h
    split
    · exact .inl rfl
    · exact errKeptOrWritten_writeReg s r v
  | start rsv =>
    cases h
    exact errKeptOrWritten_commandStart s

/-- A host operation keeps STATE or is a START, as a command or as a write to CTRL (R25). -/
theorem host_exec_keeps_opState_or_starts {c : Code} {i : Instr} {s u : State} (hc : ∀ w, c ≠ .u w) (hd : decode c = .ok i)
    (he : exec i s = .next u) : u.opState = s.opState ∨ (∃ rsv, i = .start rsv) ∨ ∃ v, i = .wr .ctrl v := by
  rcases host_exec_cases hc hd he with rfl | ⟨r, -, rfl⟩ | ⟨-, hstart, -⟩ | ⟨-, ⟨v, rfl⟩ | ⟨v, rfl⟩ | ⟨v, rfl⟩⟩
  case inr.inr.inl => exact .inr hstart
  all_goals exact .inl rfl

/-- A step that lowers `irq` is a RESET or runs a START, as a command or as a write to CTRL (R208). -/
theorem step_lowers_irq {s t : State} (hs : irq s = true) (h : step s = .next t) (ht : irq t = false) :
    (∃ s', nextMove s = .reset s') ∨ ∃ c s' i, nextMove s = .run c s' ∧ decode c = .ok i ∧
      ((∃ rsv, i = .start rsv) ∨ (∃ v, i = .wr .ctrl v)) := by
  rcases step_shapes h with ⟨s', hm, -⟩ | ⟨-, -, rfl⟩ | ⟨c, s', i, u, hm, hc, hs', hd, he, rfl⟩ | ⟨hb, -⟩
  · exact .inl ⟨s', hm⟩
  · cases hs.symm.trans ((irq_tick s).symm.trans ht)
  · rcases host_exec_keeps_opState_or_starts hc hd he with hu | hstart
    · have hkept : irq s' = irq s := by
        rcases hs' with rfl | rfl
        · rfl
        · exact irq_popScript s
      rw [irq_tick, irq_congr hu, hkept, hs] at ht
      cases ht
    · exact .inr ⟨c, s', i, hm, hd, hstart⟩
  · cases hs.symm.trans (irq_of_busy hb)

/-- Settles O36. `irq` is read off STATE: START leaves BUSY, FIN leaves DONE, and ERR is written only by an accepted START,
which clears it, and by error entry; of the steps outside BUSY only RESET and START change STATE. -/
theorem irqFollowsState : Obligations.IrqFollowsState := by
  refine ⟨irq_iff, rfl, fun s t rsv h => ?_, fun s t hb h => ?_, fun s t i hs h ht => ?_, fun _ _ => step_lowers_irq⟩
  · by_cases hb : s.opState = .busy
    · cases (exec_start_of_busy hb rsv).symm.trans h
      exact irq_of_busy hb
    · cases (exec_start_of_not_busy hb rsv).symm.trans h
      exact irq_of_busy (acceptStart_opState s)
  · rw [exec_fin, if_pos hb] at h
    cases h
    rfl
  · rcases exec_err_cases h with hkept | rfl | ⟨e, u, rfl⟩
    · exact absurd (hkept.trans hs) ht
    · exact absurd (acceptStart_err s) ht
    · exact irq_raiseError e u

end Sys2Proof.Machine
end

/-! ## The encoding: every instruction and every word -/

section
/-!
SUPPORT. Formats H and C field by field, and the two directions of the encoding for all three formats (R94, R101, R102).
-/
namespace Sys2Proof.Machine

theorem regOfNum_regNum (r : Reg) : regOfNum (regNum r) = r := by cases r <;> rfl

/-- The address phase of a register carries its number and `we` (R102). -/
theorem hNum_hAddr (we : Bool) (r : Reg) : hNum (hAddr we r) = regNum r ∧ (hAddr we r).getLsbD 3 = we := by
  cases we <;> cases r <;> decide

/-- An address phase is its `we` bit and its register put together (R102). -/
theorem hAddr_fields (addr : BitVec 4) : hAddr (addr.getLsbD 3) (regOfNum (hNum addr)) = addr := by
  revert addr; decide

/-- A command word is its ignored bits and its START bit put together (R94). -/
theorem command_fields (w : BitVec 8) : w.extractLsb' 1 7 ++ BitVec.ofBool (w.getLsbD 0) = w := by
  revert w; decide

theorem extract_command (rsv : BitVec 7) (start : BitVec 1) : (rsv ++ start).extractLsb' 1 7 = rsv := by
  revert rsv start; decide

theorem startBit_command (rsv : BitVec 7) (start : BitVec 1) : (rsv ++ start).getLsbD 0 = start.getLsbD 0 := by
  revert rsv start; decide

theorem decodeH_hAddr (we : Bool) (r : Reg) (data : Nat) :
    decodeH (hAddr we r) data = if we then .wr r data else .rd r := by
  obtain ⟨hn, hwe⟩ := hNum_hAddr we r
  rw [decodeH, hn, hwe, regOfNum_regNum]

/-- Settles O1. Each format keeps its fields apart, so each operand is read back. -/
theorem decodeUndoesEncode : Obligations.DecodeUndoesEncode := by
  intro i
  cases i with
  | chk | clr | tst b | pad b | emit | fin => exact decode_encode_uop rfl
  | rd r => exact congrArg Except.ok (decodeH_hAddr false r 0)
  | wr r v => exact congrArg Except.ok (decodeH_hAddr true r v)
  | start rsv | nopc rsv =>
    rw [encode, decode_command, startBit_command, extract_command]
    rfl

/-- Settles O2. A word is its fields put together; only the data phase of a read is not kept by its instruction. -/
theorem encodeUndoesDecode : Obligations.EncodeUndoesDecode := by
  intro c i h hread
  cases c with
  | u w => exact (encode_of_decodeU h).2
  | h addr data =>
    have haddr := hAddr_fields addr
    cases Except.ok.inj h
    cases hwe : addr.getLsbD 3 with
    | true =>
      rw [hwe] at haddr
      rw [decodeH, hwe, if_pos rfl, encode, haddr]
    | false =>
      rw [hwe] at haddr
      rw [decodeH, hwe, if_neg Bool.false_ne_true, encode, haddr, hread addr data rfl hwe]
  | c w =>
    have hw := command_fields w
    obtain rfl := Except.ok.inj ((decode_command w).symm.trans h)
    cases hbit : w.getLsbD 0 <;> rw [hbit] at hw <;> exact congrArg Code.c hw

/-- Settles O4. Each word is decoded by its fields. -/
theorem specWordsDecode : Obligations.SpecWordsDecode := by
  unfold Obligations.SpecWordsDecode
  decide

/-- Settles O7. The fetched word is the encoder's word for the slot's micro-operation. -/
theorem fetchedWordDecodes : Obligations.FetchedWordDecodes := by
  intro s
  rw [decode_fetchWord]
  cases s.slot <;> rfl

end Sys2Proof.Machine
end

/-! ## The contract of PACK: bits, bounds and PACK8 -/

section
/-!
SUPPORT. The bounds of the counts, the layout of the packed sequence, and a byte as the eight lanes of PACK8.
-/
namespace Sys2Proof.Machine

theorem Params.le_dimW {p : Params} (hp : p.legal = true) : 3 ≤ p.dimW := by
  simp only [Params.legal, Bool.and_eq_true, decide_eq_true_iff] at hp
  exact hp.1

theorem Params.le_thrW {p : Params} (hp : p.legal = true) : 10 ≤ p.thrW := by
  simp only [Params.legal, Bool.and_eq_true, decide_eq_true_iff] at hp
  exact hp.2

theorem gpr_le_two_pow {w d : Nat} (hd : 3 ≤ d) (hw : w < 2 ^ d) : gpr w ≤ 2 ^ (d - 3) := by
  obtain ⟨-, -, -, hle⟩ := groupsPerRow
  exact hle w d hd hw

/-- BYTECOUNT fits three bits less than two dimensions (R9). -/
theorem byteCount_lt {w h d : Nat} (hd : 3 ≤ d) (hw : w < 2 ^ d) (hh : h < 2 ^ d) : byteCount w h < 2 ^ (2 * d - 3) :=
  calc h * gpr w ≤ h * 2 ^ (d - 3) := Nat.mul_le_mul_left _ (gpr_le_two_pow hd hw)
    _ < 2 ^ d * 2 ^ (d - 3) := Nat.mul_lt_mul_of_pos_right hh (Nat.two_pow_pos _)
    _ = 2 ^ (2 * d - 3) := by rw [← pow_add]; congr 1; omega

theorem byteCount_lt_cntW {p : Params} {w h : Nat} (hp : p.legal = true) (hw : w < 2 ^ p.dimW) (hh : h < 2 ^ p.dimW) :
    byteCount w h < 2 ^ p.cntW :=
  (byteCount_lt (Params.le_dimW hp) hw hh).trans_le (Nat.pow_le_pow_right (by decide) (Nat.sub_le _ _))

/-- Settles O39. A row has at most `2^(DIM_W-3)` groups of eight columns. -/
theorem countsAndColumnsFit : Obligations.CountsAndColumnsFit := by
  intro p w h hp hw hh
  have hd := Params.le_dimW hp
  refine ⟨byteCount_lt hd hw hh, byteCount_lt_cntW hp hw hh, fun g b hg => ?_⟩
  have hle := gpr_le_two_pow hd hw
  have h8 : 2 ^ p.dimW = 2 ^ (p.dimW - 3) * 2 ^ 3 := by rw [← pow_add, Nat.sub_add_cancel hd]
  unfold column
  omega

/-- Settles O55. The closed form's bit is that of its bit position. -/
theorem packedByteBits : Obligations.PackedByteBits := packedByte_getLsbD

/-- Settles O56. Row `y`, group `g` is element `y * GPR + g`. -/
theorem packedSequenceLayout : Obligations.PackedSequenceLayout :=
  fun gr w h t => ⟨packedBytes_length gr w h t, fun _ _ hy hg => packedBytes_getElem? gr t hy hg⟩

/-- Settles O60. On a sample that is answered the pixel is one comparison. -/
theorem thresholdExtremes : Obligations.ThresholdExtremes := by
  intro g x y v hv
  have hpixel : ∀ t, pixel g t x y = true ↔ t ≤ (v.toNat : Int) := by
    intro t
    rw [pixel, hv]
    exact decide_eq_true_iff
  have hmax : v = 0xFF#8 ↔ v.toNat = 255 := by rw [← BitVec.toNat_inj]; rfl
  rw [hpixel, hpixel, hpixel, hmax]
  omega

/-- The enable mask keeps exactly the bit positions whose column is below the width (R133). -/
theorem enableMask_getLsbD {w grp : Nat} (hg : grp < gpr w) (b : Fin 8) :
    (enableMask w grp).getLsbD (7 - b) = decide (column grp b < w) := by
  have hones : ∀ j < 8, (0xFF#8).getLsbD j = true := by decide
  unfold enableMask
  split
  · rw [hones _ (by omega), decide_eq_true (column_lt_of_not_last ‹_› b)]
  · have hlast : 7 - b.val < 8 * gpr w - w ↔ ¬ column grp b < w := by
      unfold gpr column at *
      omega
    rw [BitVec.getLsbD_shiftLeft, decide_eq_true (show 7 - b.val < 8 by omega), hones _ (by omega)]
    simp only [hlast, decide_not, Bool.not_not, Bool.true_and, Bool.and_true]

/-- A lane reaches its own bit position and no other (R133). -/
theorem lane_getLsbD (g : Grid) (t : Int) (y grp : Nat) (b c : Fin 8) :
    (lane g t y grp c).getLsbD (7 - b) = (decide (c = b) && pixel g t (column grp c) y) := by
  have hpos : 7 - b.val = 7 - c.val ↔ c = b := by omega
  unfold lane
  split <;> simp [accMask_getLsbD, *]

/-- Settles O57. At each bit position one lane stands, and the mask lets it through if its column is below the width. -/
theorem packEightIsPackedByte : Obligations.PackEightIsPackedByte := by
  intro g w t y grp hg
  refine BitVec.eq_of_getLsbD_eq fun j hj => ?_
  obtain ⟨b, rfl⟩ : ∃ b : Fin 8, j = 7 - b.val := ⟨⟨7 - j, by omega⟩, by dsimp only; omega⟩
  rw [packedByte_getLsbD, bitSet, pack8, BitVec.getLsbD_and, enableMask_getLsbD hg]
  simp only [BitVec.getLsbD_or, lane_getLsbD]
  congr 1
  fin_cases b <;> simp

end Sys2Proof.Machine
end

/-! ## What one step does to the engine -/

section
/-!
SUPPORT. One step as one engine move between changes of what only the outside world holds: the form in which every
invariant below is proved.
-/
namespace Sys2Proof.Machine

/-- Everything a micro-operation at its slot does in BUSY (R141 to R147, R161 to R165). -/
inductive UopMove (s : State) : State → Prop where
  | wait (hs : s.slot = .emit ∧ s.pins.byteReady = false ∨
      ∃ b, s.slot = .bit b ∧ column s.g b < s.width ∧ s.pins.sampleReady = false) : UopMove s s
  | chkPass (hs : s.slot = .chk) (ht : thresholdLegal s.threshold = true) :
      UopMove s (setPc s 0 0 (firstSlot s.width s.height))
  | chkParam (hs : s.slot = .chk) (ht : ¬ thresholdLegal s.threshold = true) : UopMove s (raiseError .param s)
  | clr (hs : s.slot = .clr) : UopMove s (setPc (setAcc s 0) s.y s.g (.bit 0))
  | tstFault {b : Fin 8} (hs : s.slot = .bit b) (hx : column s.g b < s.width)
      (hr : s.grid.read (column s.g b) s.y = none) (hp : s.pins.sampleReady = true) :
      UopMove s (raiseError .grid (logSample s (column s.g b) s.y))
  | tstOk {b : Fin 8} {v : Byte} (hs : s.slot = .bit b) (hx : column s.g b < s.width)
      (hr : s.grid.read (column s.g b) s.y = some v) (hp : s.pins.sampleReady = true) :
      UopMove s (setPc (setAcc (logSample s (column s.g b) s.y)
        (if sampleSet s.threshold v then s.acc ||| accMask b else s.acc)) s.y s.g (nextSlot b))
  | pad {b : Fin 8} (hs : s.slot = .bit b) (hx : ¬ column s.g b < s.width) : UopMove s (setPc s s.y s.g (nextSlot b))
  | emitGroup (hs : s.slot = .emit) (hg : s.g + 1 < gpr s.width) (hp : s.pins.byteReady = true) :
      UopMove s (setPc (countByte (sendByte s s.acc)) s.y (s.g + 1) .clr)
  | emitRow (hs : s.slot = .emit) (hg : gpr s.width ≤ s.g + 1) (hy : s.y + 1 < s.height)
      (hp : s.pins.byteReady = true) : UopMove s (setPc (countByte (sendByte s s.acc)) (s.y + 1) 0 .clr)
  | emitLast (hs : s.slot = .emit) (hg : gpr s.width ≤ s.g + 1) (hy : s.height ≤ s.y + 1)
      (hp : s.pins.byteReady = true) : UopMove s (setPc (countByte (sendByte s s.acc)) s.y s.g .fin)
  | fin (hs : s.slot = .fin) : UopMove s (sendCommit { s with opState := .done })

/-- A bit slot's TST, by the answer of the sample port. -/
theorem uopMove_tst {s u : State} {b : Fin 8} (hb : s.opState = .busy) (hs : s.slot = .bit b)
    (hx : column s.g b < s.width) (h : exec (.tst b) s = .next u) : UopMove s u := by
  rcases samplePort_cases s (column s.g b) s.y with ⟨hp, hw⟩ | ⟨hp, hq, hr⟩ | ⟨v, hp, hq, hr⟩
  · rw [exec_tst, if_pos hb, hp] at h
    cases h
    exact .wait (.inr ⟨b, hs, hx, hw⟩)
  · rw [exec_tst, if_pos hb, hp] at h
    cases h
    exact .tstFault hs hx hr hq
  · cases (exec_tst_of_ok hb hp).symm.trans h
    exact .tstOk hs hx hr hq

/-- EMIT, by whether the byte port accepts and where `next_group` goes. -/
theorem uopMove_emit {s u : State} (hb : s.opState = .busy) (hs : s.slot = .emit) (h : exec .emit s = .next u) :
    UopMove s u := by
  rw [exec_emit, if_pos hb] at h
  cases hp : s.pins.byteReady with
  | false =>
    rw [hp] at h
    cases h
    exact .wait (.inl ⟨hs, hp⟩)
  | true =>
    rw [hp] at h
    cases h
    rcases nextGroup_cases (countByte (sendByte s s.acc)) with ⟨hg, h⟩ | ⟨hg, hy, h⟩ | ⟨hg, hy, h⟩ <;>
      rw [if_pos rfl, h]
    · exact .emitGroup hs hg hp
    · exact .emitRow hs hg hy hp
    · exact .emitLast hs hg hy hp

theorem uopMove_of_exec {s u : State} (hb : s.opState = .busy) (h : exec (slotUop s.width s.g s.slot) s = .next u) :
    UopMove s u := by
  cases hs : s.slot with
  | chk =>
    rw [hs, slotUop, exec_chk, if_pos hb] at h
    cases h
    split
    · exact .chkPass hs ‹_›
    · exact .chkParam hs ‹_›
  | clr =>
    rw [hs, slotUop, exec_clr, if_pos hb] at h
    cases h
    exact .clr hs
  | bit b =>
    rw [hs, slotUop] at h
    split at h
    · exact uopMove_tst hb hs ‹_› h
    · rw [exec_pad, if_pos hb] at h
      cases h
      exact .pad hs ‹_›
  | emit =>
    rw [hs, slotUop] at h
    exact uopMove_emit hb hs h
  | fin =>
    rw [hs, slotUop, exec_fin, if_pos hb] at h
    cases h
    exact .fin hs

/-- Everything one step does to the engine: nothing, RESET, an accepted START or a parameter write outside BUSY, or in
BUSY a micro-operation. -/
inductive EngineMove (s : State) : State → Prop where
  | rest : EngineMove s s
  | reset : EngineMove s (resetEngine s)
  | start (hb : s.opState ≠ .busy) : EngineMove s (acceptStart s)
  | width (hb : s.opState ≠ .busy) (v : Nat) : EngineMove s (setWidth s (dataPhase s.params .width v))
  | height (hb : s.opState ≠ .busy) (v : Nat) : EngineMove s (setHeight s (dataPhase s.params .height v))
  | threshold (hb : s.opState ≠ .busy) (v : Nat) : EngineMove s (setThreshold s (thresholdOfBits s.params v))
  | uop {u : State} (hb : s.opState = .busy) (hu : UopMove s u) : EngineMove s u

/-- `t` differs from `s` at most in what the outside world holds: the host's record of reads, its script, the input
levels. -/
def SameEngine (s t : State) : Prop :=
  ∃ rs sc ps pl, t = { s with reads := rs, script := sc, pins := ps, pinsLater := pl }

theorem SameEngine.refl (s : State) : SameEngine s s := ⟨_, _, _, _, rfl⟩

theorem sameEngine_tick (s : State) : SameEngine s (tick s) := ⟨_, _, _, _, rfl⟩

theorem sameEngine_popScript (s : State) : SameEngine s (popScript s) := ⟨_, _, _, _, rfl⟩

theorem sameEngine_tick_logRead (s : State) (r : Reg) (v : Nat) : SameEngine s (tick (logRead s r v)) := ⟨_, _, _, _, rfl⟩

/-- A step is one engine move, but for what the outside world holds. -/
theorem step_engineMove {s t : State} (h : step s = .next t) :
    ∃ s' u, SameEngine s s' ∧ EngineMove s' u ∧ SameEngine u t := by
  have hpop : ∀ {s'}, s' = s ∨ s' = popScript s → SameEngine s s' := by
    rintro s' (rfl | rfl)
    · exact .refl _
    · exact sameEngine_popScript s
  rcases step_shapes h with ⟨s', -, hs', -, rfl⟩ | ⟨-, -, rfl⟩ | ⟨c, s', i, u, -, hc, hs', hd, he, rfl⟩ |
    ⟨hb, -, i, u, hd, he, rfl⟩
  · exact ⟨_, _, hpop hs', .reset, sameEngine_tick _⟩
  · exact ⟨_, _, .refl s, .rest, sameEngine_tick s⟩
  · rcases host_exec_cases hc hd he with rfl | ⟨r, -, rfl⟩ | ⟨hb, -, rfl⟩ | ⟨hb, ⟨v, rfl⟩ | ⟨v, rfl⟩ | ⟨v, rfl⟩⟩
    · exact ⟨_, _, hpop hs', .rest, sameEngine_tick _⟩
    · exact ⟨_, _, hpop hs', .rest, sameEngine_tick_logRead _ _ _⟩
    · exact ⟨_, _, hpop hs', .start hb, sameEngine_tick _⟩
    · exact ⟨_, _, hpop hs', .width hb v, sameEngine_tick _⟩
    · exact ⟨_, _, hpop hs', .height hb v, sameEngine_tick _⟩
    · exact ⟨_, _, hpop hs', .threshold hb v, sameEngine_tick _⟩
  · obtain rfl := Except.ok.inj ((decode_fetchWord s).symm.trans hd)
    exact ⟨_, _, .refl s, .uop hb (uopMove_of_exec hb he), sameEngine_tick u⟩

/-- What the outside world cannot change and every engine move keeps, every step keeps. -/
theorem step_keeps {I : State → Prop} (hsame : ∀ {s t}, SameEngine s t → I s → I t)
    (hmove : ∀ {s u}, EngineMove s u → I s → I u) {s t : State} (hs : I s) (h : step s = .next t) : I t := by
  obtain ⟨s', u, hss, hm, hut⟩ := step_engineMove h
  exact hsame hut (hmove hm (hsame hss hs))

/-- A micro-operation writes none of a pack's inputs. -/
theorem UopMove.keepsInputs {s u : State} (h : UopMove s u) : SameInputs s u ∧ u.params = s.params := by
  cases h <;> exact ⟨⟨rfl, rfl, rfl, rfl⟩, rfl⟩

end Sys2Proof.Machine
end

/-! ## Invariants (spec/10_state.md, section 10) -/

section
/-!
SUPPORT. The control invariant (R51 (a) to (d)): inside BUSY pc and K agree, and no move takes an element out of its range.
-/
namespace Sys2Proof.Machine

/-- In BUSY: where the engine stands agrees with its counters (R51 (d), R161, R165, R30). -/
structure PcAgrees (s : State) : Prop where
  atChk : s.slot = .chk → s.y = 0 ∧ s.g = 0 ∧ s.k = 0
  inGroup : s.slot.inGroup = true →
    s.y < s.height ∧ s.g < gpr s.width ∧ s.k = s.y * gpr s.width + s.g ∧ thresholdLegal s.threshold = true
  atFin : s.slot = .fin → s.k = byteCount s.width s.height ∧ thresholdLegal s.threshold = true

/-- Inside a group CHK has let the threshold pass (R51 (d)). -/
theorem PcAgrees.legal {s : State} (h : PcAgrees s) (hs : s.slot.inGroup = true) : thresholdLegal s.threshold = true := by
  obtain ⟨-, -, -, ht⟩ := h.inGroup hs
  exact ht

theorem pcAgrees_acceptStart (s : State) : PcAgrees (acceptStart s) := ⟨fun _ => ⟨rfl, rfl, rfl⟩, nofun, nofun⟩

theorem nextSlot_inGroup (b : Fin 8) : (nextSlot b).inGroup = true := by unfold nextSlot; split <;> rfl

section
variable {s : State}

/-- A slot of a group keeps pc and K in agreement by going to another slot of it. -/
theorem PcAgrees.toSlot (h : PcAgrees s) (hs : s.slot.inGroup = true) {sl : Slot} (hsl : sl.inGroup = true) :
    PcAgrees (setPc s s.y s.g sl) where
  atChk hc := by cases hc; cases hsl
  inGroup _ := h.inGroup hs
  atFin hf := by cases hf; cases hsl

/-- CHK goes to the first group, or to FIN where no byte is to be appended (R162). -/
theorem PcAgrees.chkPass (h : PcAgrees s) (hs : s.slot = .chk) (ht : thresholdLegal s.threshold = true) :
    PcAgrees (setPc s 0 0 (firstSlot s.width s.height)) := by
  obtain ⟨-, -, hk⟩ := h.atChk hs
  rcases firstSlot_cases s.width s.height with ⟨h0, hf⟩ | ⟨hh, hg, hf⟩ <;> rw [hf]
  · exact ⟨nofun, nofun, fun _ => ⟨hk.trans h0.symm, ht⟩⟩
  · exact ⟨nofun, fun _ => ⟨hh, hg, by simp [hk], ht⟩, nofun⟩

/-- K after the EMIT that ends a row counts all groups of the rows so far. -/
theorem PcAgrees.k_row_end (h : PcAgrees s) (hs : s.slot = .emit) (hg : gpr s.width ≤ s.g + 1) :
    s.k + 1 = (s.y + 1) * gpr s.width := by
  obtain ⟨-, hlt, hk, -⟩ := h.inGroup (hs ▸ rfl)
  rw [Nat.succ_mul]
  omega

/-- A micro-operation that stays in BUSY keeps pc and K in agreement. -/
theorem PcAgrees.uop {u : State} (h : PcAgrees s) (hu : UopMove s u) (hub : u.opState = .busy) :
    PcAgrees u := by
  cases hu with
  | wait => exact h
  | chkPass hs ht => exact h.chkPass hs ht
  | clr hs => exact { h.toSlot (sl := .bit 0) (hs ▸ rfl) rfl with }
  | tstOk hs => exact { h.toSlot (hs ▸ rfl) (nextSlot_inGroup _) with }
  | pad hs => exact h.toSlot (hs ▸ rfl) (nextSlot_inGroup _)
  | emitGroup hs hg =>
    obtain ⟨hy, -, hk, ht⟩ := h.inGroup (hs ▸ rfl)
    exact ⟨nofun, fun _ => ⟨hy, hg, congrArg (· + 1) hk, ht⟩, nofun⟩
  | emitRow hs hg hy =>
    obtain ⟨-, hlt, -, ht⟩ := h.inGroup (hs ▸ rfl)
    exact ⟨nofun, fun _ => ⟨hy, Nat.zero_lt_of_lt hlt, h.k_row_end hs hg, ht⟩, nofun⟩
  | emitLast hs hg hy =>
    obtain ⟨hlt, -, -, ht⟩ := h.inGroup (hs ▸ rfl)
    have hh : s.height = s.y + 1 := Nat.le_antisymm hy hlt
    have hk : s.k + 1 = byteCount s.width s.height := by rw [h.k_row_end hs hg, byteCount, hh]
    exact ⟨nofun, nofun, fun _ => ⟨hk, ht⟩⟩
  | chkParam | tstFault | fin => cases hub

/-- Every element stays in its width under a micro-operation: K counts at most BYTECOUNT bytes (R9, R132). -/
theorem InRange.uop {u : State} (h : InRange s) (hpc : PcAgrees s) (hu : UopMove s u) : InRange u := by
  have hzero : ∀ d, 0 < 2 ^ d := fun d => Nat.two_pow_pos d
  have hk : s.slot = .emit → s.k + 1 < 2 ^ s.params.cntW := by
    intro hs
    obtain ⟨hy, hg, hk, -⟩ := hpc.inGroup (hs ▸ rfl)
    rw [hk]
    exact (group_succ_le_byteCount hy hg).trans_lt (byteCount_lt_cntW h.params h.width h.height)
  cases hu with
  | wait => exact h
  | chkPass => exact { h with y := hzero _, g := hzero _ }
  | chkParam | tstFault => exact { h with k := hzero _ }
  | clr | tstOk | pad | fin => exact { h with }
  | emitGroup hs hg =>
    have hgpr : gpr s.width ≤ 2 ^ (s.params.dimW - 3) := gpr_le_two_pow (Params.le_dimW h.params) h.width
    have hle : 2 ^ (s.params.dimW - 3) ≤ 2 ^ s.params.dimW := Nat.pow_le_pow_right (by decide) (Nat.sub_le _ _)
    exact { h with g := (hg.trans_le hgpr).trans_le hle, k := hk hs }
  | emitRow hs hg hy => exact { h with y := hy.trans h.height, g := hzero _, k := hk hs }
  | emitLast hs => exact { h with k := hk hs }

theorem dataPhase_lt (p : Params) (r : Reg) (v : Nat) : dataPhase p r v < 2 ^ r.dataWidth p :=
  Nat.mod_lt _ (Nat.two_pow_pos _)

/-- The reset value 128 of THRESHOLD fits every legal THR_W (R50, R8). -/
theorem InRange.reset (h : InRange s) : InRange (resetEngine s) := by
  have hzero : ∀ d, 0 < 2 ^ d := fun d => Nat.two_pow_pos d
  have h512 : (2 : Int) ^ 9 ≤ 2 ^ (s.params.thrW - 1) := by
    have := Params.le_thrW h.params
    exact pow_le_pow_right₀ (by decide) (by omega)
  refine { params := h.params, grid := h.grid, width := hzero _, height := hzero _, thresholdLow := ?_, thresholdHigh := ?_,
           y := hzero _, g := hzero _, k := hzero _ }
  · exact (neg_nonpos.mpr (by positivity)).trans (show (0 : Int) ≤ 128 by decide)
  · exact (show (128 : Int) < 2 ^ 9 by decide).trans_le h512

theorem ControlInv.pcAgrees (h : ControlInv s) (hb : s.opState = .busy) : PcAgrees s :=
  ⟨h.atChk hb, h.inGroup hb, h.atFin hb⟩

/-- A micro-operation keeps the control invariant: it stays in BUSY, or ends the pack with an error or with FIN. -/
theorem ControlInv.uop {u : State} (h : ControlInv s) (hb : s.opState = .busy) (hu : UopMove s u) : ControlInv u := by
  have hpc := h.pcAgrees hb
  have hrange := h.range.uop hpc hu
  have hpcu := hpc.uop hu
  have herr : ∀ {t : State}, t.err = s.err → t.opState = .busy → (t.err ≠ .none ↔ t.opState = .error) := by
    intro t he ht
    rw [he, h.errIff, hb, ht]
  have hbusy : ∀ {t : State}, t.opState = .busy → t.opState = .idle ∨ t.opState = .error → t.k = 0 ∧ t.out = [] := by
    rintro t ht (hi | hi) <;> cases ht.symm.trans hi
  have running : u.out.length = u.k → u.err = s.err → u.opState = .busy → ControlInv u := fun hlen he hub =>
    ⟨hrange, hlen, hbusy hub, herr he hub, fun _ => (hpcu hub).atChk, fun _ => (hpcu hub).inGroup, fun _ => (hpcu hub).atFin⟩
  have happ : (s.out ++ [s.acc]).length = s.k + 1 := by rw [List.length_append, h.outLength]; rfl
  cases hu with
  | wait => exact h
  | chkPass | clr | tstOk | pad => exact running h.outLength rfl hb
  | emitGroup | emitRow | emitLast => exact running happ rfl hb
  | chkParam | tstFault => exact ⟨hrange, rfl, fun _ => ⟨rfl, rfl⟩, by simp, nofun, nofun, nofun⟩
  | fin =>
    have hne : ¬ s.err ≠ .none := by rw [h.errIff, hb]; nofun
    exact ⟨hrange, h.outLength, nofun, ⟨fun he => absurd he hne, nofun⟩, nofun, nofun, nofun⟩

theorem ControlInv.move {u : State} (h : ControlInv s) (hm : EngineMove s u) : ControlInv u := by
  have hidle : ∀ {p : Prop}, s.opState ≠ .busy → s.opState = .busy → p := fun hb hb' => absurd hb' hb
  cases hm with
  | rest => exact h
  | reset => exact ⟨h.range.reset, rfl, fun _ => ⟨rfl, rfl⟩, by simp, nofun, nofun, nofun⟩
  | start hb =>
    have hzero : ∀ d, 0 < 2 ^ d := fun d => Nat.two_pow_pos d
    have hpc := pcAgrees_acceptStart s
    exact ⟨{ h.range with y := hzero _, g := hzero _, k := hzero _ }, rfl, nofun, by simp, fun _ => hpc.atChk,
      fun _ => hpc.inGroup, fun _ => hpc.atFin⟩
  | width hb v =>
    exact { h with
      range := { h.range with width := dataPhase_lt s.params .width v }, inGroup := hidle hb, atFin := hidle hb }
  | height hb v =>
    exact { h with
      range := { h.range with height := dataPhase_lt s.params .height v }, inGroup := hidle hb, atFin := hidle hb }
  | threshold hb v =>
    obtain ⟨hlow, hhigh⟩ := thresholdOfBits_range (p := s.params) v
    exact { h with
      range := { h.range with thresholdLow := hlow, thresholdHigh := hhigh }, inGroup := hidle hb, atFin := hidle hb }
  | uop hb hu => exact h.uop hb hu

theorem ControlInv.sameEngine {t : State} (hst : SameEngine s t) (h : ControlInv s) : ControlInv t := by
  obtain ⟨_, _, _, _, rfl⟩ := hst
  exact { h with range := { h.range with } }

end

/-- Settles O45. Each engine move keeps the control invariant, and the outside world has no part in it. -/
theorem stepKeepsControlInv : Obligations.StepKeepsControlInv :=
  fun _ _ hs => step_keeps ControlInv.sameEngine (fun hm h => ControlInv.move h hm) hs

end Sys2Proof.Machine
end

section
/-!
SUPPORT. The data invariant (R51 (e) and (f), R212): ACC holds the bits of the group so far, OUT the bytes so far.
-/
namespace Sys2Proof.Machine

/-- ACC holds the contributions of the bit slots done in the group (R51 (e)). -/
def AccHolds (s : State) : Prop :=
  ∀ n, s.slot.bitsDone = some n → s.acc.toNat = partialByte s.grid s.width s.threshold s.y s.g n

/-- OUT holds the first K bytes of the closed form (R66, R126). -/
def OutPrefix (s : State) : Prop := s.out = (packedBytes s.grid s.width s.height s.threshold).take s.k

section
variable {s u : State}

/-- A bit slot's accumulator write, as TST or as PAD, is the contribution of its bit position (R143, R144). -/
theorem AccHolds.bit {b : Fin 8} (h : AccHolds s) (hs : s.slot = .bit b) :
    AccHolds (setPc (setAcc s (if bitSet s.grid s.width s.threshold s.y s.g b then s.acc ||| accMask b else s.acc))
      s.y s.g (nextSlot b)) := by
  intro n hn
  rw [setPc_slot, nextSlot_bitsDone] at hn
  cases hn
  exact accumulate_toNat (h b.val (hs ▸ rfl))

/-- A micro-operation keeps what ACC holds, given the threshold that CHK has let pass. -/
theorem AccHolds.uop (h : AccHolds s) (ht : s.slot.inGroup = true → thresholdLegal s.threshold = true)
    (hu : UopMove s u) : AccHolds u := by
  cases hu with
  | wait => exact h
  | chkPass =>
    rcases firstSlot_cases s.width s.height with ⟨-, hf⟩ | ⟨-, -, hf⟩ <;> rw [hf] <;> exact nofun
  | clr =>
    rintro n ⟨⟩
    rfl
  | tstOk hs hx hr =>
    have hset := bitSet_eq_sampleSet (ht (hs ▸ rfl)) hx hr
    have hbit := h.bit hs
    rw [hset] at hbit
    exact hbit
  | pad hs hx =>
    have hbit := h.bit hs
    rw [bitSet_of_padding _ _ _ hx] at hbit
    exact hbit
  | emitGroup | emitRow | emitLast => exact nofun
  | chkParam | tstFault | fin => exact h

/-- At EMIT ACC is the byte of the group (R126). -/
theorem AccHolds.at_emit (h : AccHolds s) (hs : s.slot = .emit) :
    s.acc = packedByte s.grid s.width s.threshold s.y s.g := by
  rw [packedByte, ← h 8 (hs ▸ rfl), BitVec.ofNat_toNat, BitVec.setWidth_eq]

/-- EMIT appends the next byte of the closed form (R145). -/
theorem OutPrefix.append (h : OutPrefix s) (hacc : AccHolds s) (hpc : PcAgrees s) (hs : s.slot = .emit) :
    s.out ++ [s.acc] = (packedBytes s.grid s.width s.height s.threshold).take (s.k + 1) := by
  obtain ⟨hy, hg, hk, -⟩ := hpc.inGroup (hs ▸ rfl)
  rw [List.take_add_one, ← show s.out = _ from h, hk, packedBytes_getElem? _ _ hy hg, hacc.at_emit hs, Option.toList_some]

theorem OutPrefix.uop (h : OutPrefix s) (hacc : AccHolds s) (hpc : PcAgrees s) (hu : UopMove s u) : OutPrefix u := by
  cases hu with
  | wait | chkPass | clr | tstOk | pad | fin => exact h
  | chkParam | tstFault => rfl
  | emitGroup hs | emitRow hs | emitLast hs => exact h.append hacc hpc hs

/-- At FIN the whole closed form has been appended (R134). -/
theorem OutPrefix.at_fin (h : OutPrefix s) (hpc : PcAgrees s) (hs : s.slot = .fin) :
    s.out = packedBytes s.grid s.width s.height s.threshold := by
  obtain ⟨hk, -⟩ := hpc.atFin hs
  rw [show s.out = _ from h, hk, List.take_of_length_le (packedBytes_length _ _ _ _).le]

/-- A micro-operation keeps the data invariant; FIN makes the artifact. -/
theorem DataInv.uop (h : DataInv s) (hpc : PcAgrees s) (hb : s.opState = .busy) (hu : UopMove s u) : DataInv u := by
  have hacc := AccHolds.uop (h.accHolds hb) hpc.legal hu
  have hout := OutPrefix.uop (h.outPrefix hb) (h.accHolds hb) hpc hu
  have hnone : s.artifact = none := h.noArtifact (by rw [hb]; nofun)
  have running : u.opState ≠ .done → u.artifact = none → DataInv u := fun hd ha =>
    ⟨fun _ => hacc, fun _ => hout, fun hd' => absurd hd' hd, fun _ => ha⟩
  have hne : ∀ {t : State}, t.opState = s.opState → t.opState ≠ .done := by
    intro t ht
    rw [ht, hb]
    nofun
  cases hu with
  | wait => exact h
  | chkPass | clr | tstOk | pad | emitGroup | emitRow | emitLast => exact running (hne rfl) hnone
  | chkParam | tstFault => exact running nofun rfl
  | fin hs =>
    obtain ⟨hk, ht⟩ := hpc.atFin hs
    have hall : s.out = _ := OutPrefix.at_fin (h.outPrefix hb) hpc hs
    exact ⟨nofun, nofun, fun _ => ⟨_, _, rfl, ht, rfl, rfl, hk, hall⟩, fun hd => absurd rfl hd⟩

theorem DataInv.move (h : DataInv s) (hc : ControlInv s) (hm : EngineMove s u) : DataInv u := by
  have hidle : ∀ {p : Prop}, s.opState ≠ .busy → s.opState = .busy → p := fun hb hb' => absurd hb' hb
  cases hm with
  | rest => exact h
  | reset => exact ⟨nofun, nofun, nofun, fun _ => rfl⟩
  | start => exact ⟨fun _ => nofun, fun _ => rfl, nofun, fun _ => rfl⟩
  | width hb | height hb | threshold hb => exact { h with accHolds := hidle hb, outPrefix := hidle hb }
  | uop hb hu => exact h.uop (hc.pcAgrees hb) hb hu

theorem DataInv.sameEngine (hsu : SameEngine s u) (h : DataInv s) : DataInv u := by
  obtain ⟨_, _, _, _, rfl⟩ := hsu
  exact { h with }

end

/-- Settles O46. Each engine move keeps the data invariant, by pc and K in agreement. -/
theorem stepKeepsDataInv : Obligations.StepKeepsDataInv := by
  intro s t hc hd h
  have hkept : ControlInv t ∧ DataInv t := step_keeps (I := fun s => ControlInv s ∧ DataInv s)
    (fun hst ⟨hc, hd⟩ => ⟨hc.sameEngine hst, hd.sameEngine hst⟩) (fun hm ⟨hc, hd⟩ => ⟨hc.move hm, hd.move hc hm⟩)
    ⟨hc, hd⟩ h
  exact hkept.2

end Sys2Proof.Machine
end

section
/-!
SUPPORT. The port invariant (R67, R79): the events so far, replayed by the consumer, leave it with OUT.
-/
namespace Sys2Proof.Machine

theorem replay_append (es : List OutEvent) (e : OutEvent) : replay (es ++ [e]) = consume (replay es) e := by
  rw [replay, List.foldl_append]
  rfl

/-- A consumer that is neither in a pack nor holds a committed sequence holds no byte. -/
theorem bytes_of_replay_empty {es : List OutEvent} {bs : List Byte} (h : replay es = some (.empty, bs)) : bs = [] := by
  induction es using List.reverseRecOn with
  | nil => cases h; rfl
  | append_singleton es e =>
    rw [replay_append] at h
    unfold consume at h
    split at h <;> cases h
    rfl

section
variable {s u : State}

/-- OutBegin is allowed outside a pack (R184). -/
theorem PortInv.start (h : PortInv s) (hb : s.opState ≠ .busy) : PortInv (acceptStart s) := by
  rw [PortInv, acceptStart_events, replay_append, show replay s.events = _ from h]
  cases ho : s.opState with
  | busy => exact absurd ho hb
  | idle | done | error => rfl

/-- RESET sends OutAbort where the consumer holds something, and elsewhere OUT is empty already (R190). -/
theorem PortInv.reset (h : PortInv s) : PortInv (resetEngine s) := by
  have hev : replay s.events = some (phaseOf s.opState, s.out) := h
  rw [PortInv, resetEngine_events, resetEngine_opState, resetEngine_out]
  cases ho : s.opState <;> rw [ho] at hev
  case busy | done => rw [if_pos (by simp), replay_append, hev]; rfl
  case idle | error =>
    rw [bytes_of_replay_empty hev] at hev
    rw [if_neg (by simp)]
    exact hev

/-- In BUSY every event a micro-operation sends is allowed, and OUT follows it (R67). -/
theorem PortInv.uop (h : PortInv s) (hb : s.opState = .busy) (hu : UopMove s u) : PortInv u := by
  have hev : replay s.events = some (.receiving, s.out) := by
    rw [show replay s.events = _ from h, hb]
    rfl
  have hsend : ∀ e, replay (s.events ++ [e]) = consume (some (.receiving, s.out)) e := fun e => by
    rw [replay_append, hev]
  cases hu with
  | wait | chkPass | clr | tstOk | pad => exact h
  | chkParam | tstFault => exact hsend .abort
  | emitGroup | emitRow | emitLast =>
    refine (hsend (.byte s.acc)).trans ?_
    simp only [consume, setPc_opState, countByte_opState, sendByte_opState, hb]
    rfl
  | fin => exact hsend .commit

theorem PortInv.move (h : PortInv s) (hm : EngineMove s u) : PortInv u := by
  cases hm with
  | rest | width | height | threshold => exact h
  | reset => exact h.reset
  | start hb => exact h.start hb
  | uop hb hu => exact h.uop hb hu

theorem PortInv.sameEngine (hsu : SameEngine s u) (h : PortInv s) : PortInv u := by
  obtain ⟨_, _, _, _, rfl⟩ := hsu
  exact h

end

/-- Settles O47. Each engine move sends events the consumer allows, and OUT is what they leave it with. -/
theorem stepKeepsPortInv : Obligations.StepKeepsPortInv :=
  fun _ _ hs => step_keeps PortInv.sameEngine (fun hm h => PortInv.move h hm) hs

/-- Settles O44. At reset every counter is 0, nothing has been sent, and no pack runs. -/
theorem invariantsAtReset : Obligations.InvariantsAtReset := by
  refine ⟨⟨?_, rfl, fun _ => ⟨rfl, rfl⟩, by decide, nofun, nofun, nofun⟩, ⟨nofun, nofun, nofun, fun _ => rfl⟩, rfl⟩
  constructor <;> decide

end Sys2Proof.Machine
end

/-! ## The step boundary -/

section
/-!
SUPPORT. Which move a boundary gives, in each of its cases (R85, R140, R206, R214).
-/
namespace Sys2Proof.Machine

section
variable {s : State}

theorem nextMove_of_reset (hr : s.pins.reset = true) : nextMove s = .reset s := if_pos hr

theorem nextMove_of_hostTurn (hr : s.pins.reset = false) (hh : hostTurn s = true) : nextMove s = hostMove s := by
  rw [nextMove, hr, if_neg Bool.false_ne_true, if_pos hh]

theorem nextMove_of_engine (hr : s.pins.reset = false) (hh : hostTurn s = false) (hb : s.opState = .busy) :
    nextMove s = .run (.u (fetchWord s)) s := by
  rw [nextMove, hr, if_neg Bool.false_ne_true, hh, if_neg Bool.false_ne_true, if_pos hb]

theorem nextMove_of_rest (hr : s.pins.reset = false) (hh : hostTurn s = false) (hb : s.opState ≠ .busy) :
    nextMove s = .quiet := by
  rw [nextMove, hr, if_neg Bool.false_ne_true, hh, if_neg Bool.false_ne_true, if_neg hb]

theorem hostTurn_of_nil (h : s.script = []) : hostTurn s = false := by rw [hostTurn, h]; rfl

/-- Outside BUSY every boundary is the host's while it has a line (R214). -/
theorem hostTurn_of_not_busy {item : HostItem} {rest : List HostItem} (hs : s.script = item :: rest)
    (hb : s.opState ≠ .busy) : hostTurn s = true := by
  rw [hostTurn, hs, decide_eq_true hb, Bool.or_true]
  rfl

/-- In BUSY the host has the boundaries the levels give it (R85). -/
theorem hostTurn_of_hostFirst {item : HostItem} {rest : List HostItem} (hs : s.script = item :: rest)
    (hf : s.pins.hostFirst = true) : hostTurn s = true := by
  rw [hostTurn, hs, hf, Bool.true_or]
  rfl

theorem popScript_of_script {item : HostItem} {rest : List HostItem} (hs : s.script = item :: rest) :
    popScript s = { s with script := rest } := by
  rw [popScript, hs, List.tail_cons]

/-- The host's RESET line (R190). -/
theorem hostMove_reset {rest : List HostItem} (hs : s.script = .reset :: rest) :
    hostMove s = .reset { s with script := rest } := by
  rw [hostMove, hs, popScript_of_script hs]

/-- The host's WAIT line is a read of STATUS, which keeps the line in BUSY (R187). -/
theorem hostMove_wait {rest : List HostItem} (hs : s.script = .wait :: rest) :
    hostMove s = .run (.h 0b0001#4 0) (if s.opState = .busy then s else { s with script := rest }) := by
  rw [hostMove, hs, popScript_of_script hs]

/-- A transfer or a command line is its word, in the state without the line (R102, R94). -/
theorem hostMove_line {item : HostItem} {rest : List HostItem} {c : Code} (hs : s.script = item :: rest)
    (hc : (∃ addr data, item = .transfer addr data ∧ c = .h addr data) ∨ (∃ w, item = .command w ∧ c = .c w)) :
    hostMove s = .run c { s with script := rest } := by
  rcases hc with ⟨addr, data, rfl, rfl⟩ | ⟨w, rfl, rfl⟩ <;> rw [hostMove, hs, popScript_of_script hs]

end

/-- Settles O10. Every word a step takes decodes, and every instruction answers. -/
theorem stepAlwaysAnswers : Obligations.StepAlwaysAnswers := step_next

/-- Settles O8. The boundary is the engine's. -/
theorem stepRunsFetchedUop : Obligations.StepRunsFetchedUop :=
  fun _ _ _ hr hh hb hd he => step_of_run (nextMove_of_engine hr hh hb) hd he

/-- Settles O9. The boundary is the host's, and its line is one word. -/
theorem stepRunsHostLine : Obligations.StepRunsHostLine :=
  fun _ _ _ _ _ _ hr hh hs hc hd he => step_of_run ((nextMove_of_hostTurn hr hh).trans (hostMove_line hs hc)) hd he

/-- Settles O11. Nobody has the boundary. -/
theorem engineRestsOutsideBusy : Obligations.EngineRestsOutsideBusy :=
  fun _ hr hs hb => step_of_quiet (nextMove_of_rest hr (hostTurn_of_nil hs) hb)

/-- Settles O33. WAIT is the word RD STATUS; only STATE decides whether the line stays. -/
theorem waitPollsStatus : Obligations.WaitPollsStatus := by
  refine ⟨fun s rest hr hs hb => ?_, fun s rest hr hf hs hb => ?_⟩
  · have hm := (nextMove_of_hostTurn hr (hostTurn_of_not_busy hs hb)).trans (hostMove_wait hs)
    rw [if_neg hb] at hm
    exact step_of_run hm rfl (exec_rd .status _)
  · have hm := (nextMove_of_hostTurn hr (hostTurn_of_hostFirst hs hf)).trans (hostMove_wait hs)
    rw [if_pos hb] at hm
    exact step_of_run hm rfl (exec_rd .status _)

end Sys2Proof.Machine
end

/-! ## STATE and RESET -/

section
/-!
SUPPORT. What changes STATE (R25), and what a reset does (R190, R230).
-/
namespace Sys2Proof.Machine

/-- A host operation in BUSY does at most a read (R182). -/
theorem host_exec_of_busy {c : Code} {i : Instr} {s u : State} (hc : ∀ w, c ≠ .u w) (hd : decode c = .ok i)
    (he : exec i s = .next u) (hb : s.opState = .busy) : u = s ∨ ∃ r, u = logRead s r (readReg s r) := by
  rcases host_exec_cases hc hd he with h | ⟨r, -, h⟩ | ⟨hn, -⟩ | ⟨hn, -⟩
  · exact .inl h
  · exact .inr ⟨r, h⟩
  · exact absurd hb hn
  · exact absurd hb hn

/-- In BUSY a step is a reset, leaves the engine as it is, or is a micro-operation. -/
theorem step_of_busy {s t : State} (hb : s.opState = .busy) (h : step s = .next t) :
    ((∃ s', nextMove s = .reset s') ∧ (s.pins.reset = true ∨ (hostTurn s = true ∧ s.script.head? = some .reset)) ∧
      t.opState = .idle) ∨
    SameEngine s t ∨ (∃ u, UopMove s u ∧ t = tick u) := by
  rcases step_shapes h with ⟨s', hm, -, hr, rfl⟩ | ⟨-, hn, -⟩ | ⟨c, s', i, u, -, hc, hs', hd, he, rfl⟩ |
    ⟨-, -, i, u, hd, he, rfl⟩
  · exact .inl ⟨⟨s', hm⟩, hr, rfl⟩
  · exact absurd hb hn
  · have hb' : s'.opState = .busy := by rcases hs' with rfl | rfl <;> exact hb
    refine .inr (.inl ?_)
    rcases host_exec_of_busy hc hd he hb' with rfl | ⟨r, rfl⟩ <;> rcases hs' with rfl | rfl <;> exact ⟨_, _, _, _, rfl⟩
  · obtain rfl := Except.ok.inj ((decode_fetchWord s).symm.trans hd)
    exact .inr (.inr ⟨u, uopMove_of_exec hb he, rfl⟩)

theorem SameEngine.opState {s t : State} (h : SameEngine s t) : t.opState = s.opState := by
  obtain ⟨_, _, _, _, rfl⟩ := h
  rfl

theorem SameEngine.sameInputs {s t : State} (h : SameEngine s t) : SameInputs s t := by
  obtain ⟨_, _, _, _, rfl⟩ := h
  exact ⟨rfl, rfl, rfl, rfl⟩

/-- What takes a micro-operation out of BUSY: PARAM at CHK, GRID at a bit slot inside the row, FIN (R25). -/
theorem UopMove.leaves_busy {s u : State} (h : UopMove s u) (hu : u.opState ≠ s.opState) :
    (u.opState = .error ∧ s.slot = .chk ∧ ¬ thresholdLegal s.threshold = true) ∨
    (u.opState = .error ∧ ∃ b, s.slot = .bit b ∧ column s.g b < s.width ∧ s.grid.read (column s.g b) s.y = none) ∨
    (u.opState = .done ∧ s.slot = .fin) := by
  cases h with
  | wait | chkPass | clr | tstOk | pad | emitGroup | emitRow | emitLast => exact absurd rfl hu
  | chkParam hs ht => exact .inl ⟨rfl, hs, ht⟩
  | tstFault hs hx hr => exact .inr (.inl ⟨rfl, _, hs, hx, hr⟩)
  | fin hs => exact .inr (.inr ⟨rfl, hs⟩)

/-- The low two bits of STATUS are the code of STATE (R42, R25). -/
theorem statusWord_opState (s : State) : (statusWord s).toNat % 4 =
    match s.opState with | .idle => 0 | .busy => 1 | .done => 2 | .error => 3 := by
  unfold statusWord
  cases s.err <;> cases s.opState <;> rfl

/-- Outside BUSY only RESET and START change STATE (R25, R214). -/
theorem step_changes_opState_outside_busy {s t : State} (hb : s.opState ≠ .busy) (h : step s = .next t)
    (hne : t.opState ≠ s.opState) :
    (t.opState = .idle ∧ ∃ s', nextMove s = .reset s') ∨
    (t.opState = .busy ∧ ∃ c s' i, nextMove s = .run c s' ∧ decode c = .ok i ∧
      ((∃ rsv, i = .start rsv) ∨ (∃ v, i = .wr .ctrl v))) := by
  rcases step_shapes h with ⟨s', hm, -, -, rfl⟩ | ⟨-, -, rfl⟩ | ⟨c, s', i, u, hm, hc, hs', hd, he, rfl⟩ | ⟨hb', -⟩
  · exact .inl ⟨rfl, s', hm⟩
  · exact absurd rfl hne
  · have hst : s'.opState = s.opState := by rcases hs' with rfl | rfl <;> rfl
    rcases host_exec_cases hc hd he with rfl | ⟨r, -, rfl⟩ | ⟨-, hstart, rfl⟩ | ⟨-, ⟨v, rfl⟩ | ⟨v, rfl⟩ | ⟨v, rfl⟩⟩
    case inr.inr.inl => exact .inr ⟨rfl, c, s', i, hm, hd, hstart⟩
    all_goals exact absurd hst hne
  · exact absurd hb' hb

/-- Settles O12. In BUSY a micro-operation or RESET changes STATE, elsewhere START or RESET. -/
theorem stateTransitions : Obligations.StateTransitions := by
  refine ⟨statusWord_opState, fun s t h hne => ?_⟩
  by_cases hb : s.opState = .busy
  · rcases step_of_busy hb h with ⟨hm, -, hi⟩ | hsame | ⟨u, hu, rfl⟩
    · exact .inl ⟨hi, hm⟩
    · exact absurd hsame.opState hne
    · rcases hu.leaves_busy hne with ⟨ho, hs, ht⟩ | ⟨ho, b, hs, hx, hr⟩ | ⟨ho, hs⟩
      · rw [thresholdLegal_iff] at ht
        exact .inr (.inr (.inl ⟨hb, ho, hs, by omega⟩))
      · exact .inr (.inr (.inr (.inl ⟨hb, ho, b, hs, hx, hr⟩)))
      · exact .inr (.inr (.inr (.inr ⟨hb, ho, hs⟩)))
  · rcases step_changes_opState_outside_busy hb h hne with hreset | ⟨ho, hrun⟩
    · exact .inl hreset
    · exact .inr (.inl ⟨hb, ho, hrun⟩)

/-- No micro-operation goes to IDLE (R25). -/
theorem UopMove.not_idle {s u : State} (h : UopMove s u) (hb : s.opState = .busy) : u.opState ≠ .idle := by
  intro hi
  rcases h.leaves_busy (by rw [hi, hb]; nofun) with ⟨ho, -⟩ | ⟨ho, -⟩ | ⟨ho, -⟩ <;> cases hi.symm.trans ho

/-- Settles O13. The reset input and the host's RESET line both run `resetEngine`, and nothing else leaves BUSY for
IDLE. -/
theorem resetAppliesItsValues : Obligations.ResetAppliesItsValues := by
  refine ⟨fun s hr => step_of_reset (nextMove_of_reset hr), fun s rest hr hh hs => ?_, fun s t hb h hi => ?_⟩
  · exact step_of_reset ((nextMove_of_hostTurn hr hh).trans (hostMove_reset hs))
  · rcases step_of_busy hb h with ⟨-, hr, -⟩ | hsame | ⟨u, hu, rfl⟩
    · exact hr
    · cases (hsame.opState.trans hb).symm.trans hi
    · exact absurd hi (hu.not_idle hb)

theorem atResetValues_resetEngine (s : State) : AtResetValues (resetEngine s) :=
  ⟨rfl, rfl, rfl, rfl, rfl, rfl, rfl, rfl, rfl, rfl, rfl⟩

/-- Settles O14. A reset is `resetEngine` and then the next input levels, which are no element of the engine. -/
theorem resetValues : Obligations.ResetValues :=
  ⟨fun s hr => ⟨_, step_of_reset (nextMove_of_reset hr), atResetValues_resetEngine s⟩,
    rfl, rfl, rfl, rfl, rfl, rfl, rfl, rfl, rfl, rfl, rfl⟩

/-- Settles O43. In BUSY neither a host operation nor a micro-operation writes a parameter register. -/
theorem busyKeepsParameters : Obligations.BusyKeepsParameters := by
  intro s t hb h hnr
  have hsame : SameInputs s t := by
    rcases step_of_busy hb h with ⟨⟨s', hm⟩, -⟩ | hsame | ⟨u, hu, rfl⟩
    · exact absurd hm (hnr s')
    · exact hsame.sameInputs
    · obtain ⟨hkept, -⟩ := hu.keepsInputs
      exact hkept
  obtain ⟨-, hw, hh, ht⟩ := hsame
  exact ⟨hw.symm, hh.symm, ht.symm⟩

/-- No engine move writes the grid, DIM_W or THR_W (R35, R7). -/
theorem EngineMove.keeps_grid_params {s u : State} (h : EngineMove s u) : u.grid = s.grid ∧ u.params = s.params := by
  cases h with
  | rest | reset | start | width | height | threshold => exact ⟨rfl, rfl⟩
  | uop hb hu =>
    obtain ⟨⟨hg, -⟩, hp⟩ := hu.keepsInputs
    exact ⟨hg.symm, hp⟩

/-- Settles O42. No engine move writes them, nor does the outside world. -/
theorem stepKeepsGridAndWidths : Obligations.StepKeepsGridAndWidths := by
  intro s t h
  refine step_keeps (I := fun u => u.grid = s.grid ∧ u.params = s.params) ?_ (fun hm hi => ?_) ⟨rfl, rfl⟩ h
  · rintro u v ⟨_, _, _, _, rfl⟩ hi
    exact hi
  · obtain ⟨hg, hp⟩ := hm.keeps_grid_params
    exact ⟨hg.trans hi.1, hp.trans hi.2⟩

/-- A micro-operation reads at most the sample of its bit slot, inside WIDTH (R143). -/
theorem UopMove.sampleReads_cases {s u : State} (h : UopMove s u) : u.sampleReads = s.sampleReads ∨
    ∃ b, s.slot = .bit b ∧ column s.g b < s.width ∧ u.sampleReads = s.sampleReads ++ [(column s.g b, s.y)] := by
  cases h with
  | tstFault hs hx | tstOk hs hx => exact .inr ⟨_, hs, hx, rfl⟩
  | wait | chkPass | chkParam | clr | pad | emitGroup | emitRow | emitLast | fin => exact .inl rfl

/-- Settles O41. Only TST reads; its column is below WIDTH by the fetch and its row below HEIGHT by R51 (d). -/
theorem readsStayInRange : Obligations.ReadsStayInRange := by
  intro s t hc h p hp
  obtain ⟨s', u, ⟨_, _, _, _, rfl⟩, hm, ⟨_, _, _, _, rfl⟩⟩ := step_engineMove h
  cases hm with
  | rest | reset | start | width | height | threshold => exact .inl hp
  | uop hb hu =>
    rcases hu.sampleReads_cases with hr | ⟨b, hs, hx, hr⟩
    · exact .inl (hr ▸ hp)
    · obtain ⟨hy, -⟩ := hc.inGroup hb (hs ▸ rfl)
      rcases List.mem_append.mp (hr ▸ hp) with hp | hp
      · exact .inl hp
      · obtain rfl := List.mem_singleton.mp hp
        exact .inr ⟨hx, hy⟩

end Sys2Proof.Machine
end

/-! ## The micro-operations (spec/41_datapath_uops.md) -/

section
/-!
SUPPORT. TST, PAD, EMIT and FIN as whole next states (R143 to R147), the ports that do not answer (R140, R243), and the
frame of all six.
-/
namespace Sys2Proof.Machine

section
variable {s : State} {b : Fin 8}

theorem samplePort_of_some {x y : Nat} {v : Byte} (hp : s.pins.sampleReady = true) (hr : s.grid.read x y = some v) :
    samplePort s x y = .ok v := by
  rw [samplePort, if_pos hp, hr]

theorem samplePort_of_none {x y : Nat} (hp : s.pins.sampleReady = true) (hr : s.grid.read x y = none) :
    samplePort s x y = .fault := by
  rw [samplePort, if_pos hp, hr]

theorem samplePort_of_silent {x y : Nat} (hp : s.pins.sampleReady = false) : samplePort s x y = .waiting := by
  rw [samplePort, hp, if_neg Bool.false_ne_true]

/-- Settles O40. The provider's answer is its read (R61, R62). -/
theorem providerAnswers : Obligations.ProviderAnswers := by
  refine fun s x y hp => ⟨fun hin => ?_, fun hout => ?_⟩
  · exact samplePort_of_some hp ((Grid.read_eq_some _ _ _ _).mpr ⟨hin, rfl⟩)
  · exact samplePort_of_none hp ((Grid.read_eq_none _ _ _).mpr hout)

/-- TST with its sample refused (R147). -/
theorem exec_tst_of_fault (hb : s.opState = .busy) (hp : samplePort s (column s.g b) s.y = .fault) :
    exec (.tst b) s = .next (raiseError .grid (logSample s (column s.g b) s.y)) := by
  rw [exec_tst, if_pos hb, hp]

theorem exec_tst_of_waiting (hb : s.opState = .busy) (hp : samplePort s (column s.g b) s.y = .waiting) :
    exec (.tst b) s = .next s := by
  rw [exec_tst, if_pos hb, hp]

theorem exec_emit_of_silent (hb : s.opState = .busy) (hp : s.pins.byteReady = false) : exec .emit s = .next s := by
  rw [exec_emit, if_pos hb, hp, if_neg Bool.false_ne_true]

theorem exec_emit_of_ready (hb : s.opState = .busy) (hp : s.pins.byteReady = true) :
    exec .emit s = .next (nextGroup (countByte (sendByte s s.acc))) := by
  rw [exec_emit, if_pos hb, if_pos hp]

end

/-- Settles O17. TST by the two answers of the port; the test is on the low 8 bits of THRESHOLD (R105). -/
theorem tstTestsOneSample : Obligations.TstTestsOneSample := by
  refine ⟨fun s b v hb hp hr => ?_, fun s b hb hp hr => ?_⟩
  · rw [exec_tst_of_ok hb (samplePort_of_some hp hr)]
    simp only [sampleSet_iff]
    rfl
  · rw [exec_tst_of_fault hb (samplePort_of_none hp hr)]
    rfl

/-- Settles O18. The bit written is that of the mask, and a legal threshold is its own low 8 bits. -/
theorem tstSetsOneBit : Obligations.TstSetsOneBit := by
  intro s t b v j hb hp _ h0 h255 hr h
  have hlegal : thresholdLegal s.threshold = true := (thresholdLegal_iff _).mpr ⟨h0, h255⟩
  cases (exec_tst_of_ok hb (samplePort_of_some hp hr)).symm.trans h
  rw [setPc_acc, setAcc_acc, sampleSet_legal hlegal]
  cases decide (s.threshold ≤ (v.toNat : Int)) with
  | true => rw [if_pos rfl, BitVec.getLsbD_or, accMask_getLsbD, Bool.and_true]
  | false => rw [if_neg Bool.false_ne_true, Bool.and_false, Bool.or_false]

/-- Settles O19. PAD moves the slot and nothing else. -/
theorem padOnlyAdvances : Obligations.PadOnlyAdvances := by
  intro s b hb
  rw [exec_pad, if_pos hb]
  rfl

/-- `next_group` as one update of pc (R165). -/
theorem nextGroup_eq (s : State) : nextGroup s = { s with
    y := if s.g + 1 < gpr s.width then s.y else if s.y + 1 < s.height then s.y + 1 else s.y
    g := if s.g + 1 < gpr s.width then s.g + 1 else if s.y + 1 < s.height then 0 else s.g
    slot := if s.g + 1 < gpr s.width then .clr else if s.y + 1 < s.height then .clr else .fin } := by
  unfold nextGroup
  split
  · rfl
  · split <;> rfl

/-- Settles O20. The byte goes to the end of OUT, which is element K where K is the length. -/
theorem emitAppendsAccumulator : Obligations.EmitAppendsAccumulator := by
  intro s hb hp
  refine ⟨_, (exec_emit_of_ready hb hp).trans (congrArg _ (nextGroup_eq _)), rfl, fun hlen => ?_, fun j hj => ?_⟩
  · exact hlen ▸ List.getElem?_concat_length
  · exact List.getElem?_append_left hj

/-- Settles O21. FIN is OutCommit in DONE. -/
theorem finFinishes : Obligations.FinFinishes := by
  intro s hb
  rw [exec_fin, if_pos hb]
  rfl

theorem exec_uop_outside_busy {s : State} {i : Instr} (hi : isUop i = true) (hb : s.opState ≠ .busy) :
    exec i s = .next s := by
  cases i with
  | chk => rw [exec_chk, if_neg hb]
  | clr => rw [exec_clr, if_neg hb]
  | tst b => rw [exec_tst, if_neg hb]
  | pad b => rw [exec_pad, if_neg hb]
  | emit => rw [exec_emit, if_neg hb]
  | fin => rw [exec_fin, if_neg hb]
  | rd | wr | start | nopc => cases hi

/-- Settles O22. Each micro-operation is guarded by BUSY. -/
theorem uopsExecuteOnlyInBusy : Obligations.UopsExecuteOnlyInBusy := fun _ _ hi hb => exec_uop_outside_busy hi hb

/-- Settles O23. TST without an answer and EMIT without a taker leave the state as it is. -/
theorem stalledPortNoEffect : Obligations.StalledPortNoEffect :=
  ⟨fun _ _ hb hp => exec_tst_of_waiting hb (samplePort_of_silent hp), fun _ hb hp => exec_emit_of_silent hb hp⟩

theorem runFor_of_step_self {s : State} (h : step s = .next s) (n : Nat) : runFor n s = .next s := by
  induction n with
  | zero => rfl
  | succ n ih => rw [runFor_succ n h, ih]

/-- Settles O24. The waiting micro-operation answers the same state, and the levels hold, so the next step is the same. -/
theorem stalledEngineStays : Obligations.StalledEngineStays := by
  intro s n hb hr hh hl hstall
  have hexec : exec (slotUop s.width s.g s.slot) s = .next s := by
    rcases hstall with ⟨hs, hp⟩ | ⟨b, hs, hx, hp⟩
    · rw [hs]
      exact exec_emit_of_silent hb hp
    · rw [hs, slotUop, if_pos (show column s.g b < s.width from hx)]
      exact exec_tst_of_waiting hb (samplePort_of_silent hp)
  have hstep := step_of_run (nextMove_of_engine hr hh hb) (decode_fetchWord s) hexec
  rw [tick_of_pinsLater_nil hl] at hstep
  exact runFor_of_step_self hstep n

/-- Everything TST can do: nothing, error entry after the refused read, or the accumulator write after the answered one. -/
theorem exec_tst_cases {b : Fin 8} {s t : State} (h : exec (.tst b) s = .next t) :
    t = s ∨ t = raiseError .grid (logSample s (column s.g b) s.y) ∨
    ∃ a, t = setPc (setAcc (logSample s (column s.g b) s.y) a) s.y s.g (nextSlot b) := by
  by_cases hb : s.opState = .busy
  · rcases samplePort_cases s (column s.g b) s.y with ⟨hp, -⟩ | ⟨hp, -⟩ | ⟨v, hp, -⟩
    · cases (exec_tst_of_waiting hb hp).symm.trans h
      exact .inl rfl
    · cases (exec_tst_of_fault hb hp).symm.trans h
      exact .inr (.inl rfl)
    · cases (exec_tst_of_ok hb hp).symm.trans h
      exact .inr (.inr ⟨_, rfl⟩)
  · cases (exec_uop_outside_busy rfl hb).symm.trans h
    exact .inl rfl

/-- Everything EMIT can do: nothing, or the append and a move of pc. -/
theorem exec_emit_cases {s t : State} (h : exec .emit s = .next t) :
    t = s ∨ ∃ y g slot, t = setPc (countByte (sendByte s s.acc)) y g slot := by
  cases (exec_emit s).symm.trans h
  split_ifs
  · exact .inr ⟨_, _, _, nextGroup_eq _⟩
  · exact .inl rfl
  · exact .inl rfl

/-- No micro-operation writes DIM_W, THR_W or the host's side (R140). -/
theorem exec_uop_frame {i : Instr} {s t : State} (hi : isUop i = true) (he : exec i s = .next t) :
    t.params = s.params ∧ t.reads = s.reads ∧ t.script = s.script := by
  cases i with
  | chk | clr | pad b | fin =>
    cases he
    split_ifs <;> exact ⟨rfl, rfl, rfl⟩
  | tst b => rcases exec_tst_cases he with rfl | rfl | ⟨_, rfl⟩ <;> exact ⟨rfl, rfl, rfl⟩
  | emit => rcases exec_emit_cases he with rfl | ⟨_, _, _, rfl⟩ <;> exact ⟨rfl, rfl, rfl⟩
  | rd | wr | start | nopc => cases hi

/-- OUT and K change by EMIT and by error entry only (R60, R76). -/
theorem exec_uop_keeps_out {i : Instr} {s t : State} (hi : isUop i = true) (he : exec i s = .next t) (hne : i ≠ .emit)
    (herr : t.opState ≠ .error) : t.out = s.out ∧ t.k = s.k := by
  cases i with
  | chk =>
    cases (exec_chk s).symm.trans he
    split_ifs at herr ⊢
    · exact ⟨rfl, rfl⟩
    · exact absurd rfl herr
    · exact ⟨rfl, rfl⟩
  | tst b =>
    rcases exec_tst_cases he with rfl | rfl | ⟨_, rfl⟩
    · exact ⟨rfl, rfl⟩
    · exact absurd rfl herr
    · exact ⟨rfl, rfl⟩
  | clr | pad b | fin =>
    cases he
    split_ifs <;> exact ⟨rfl, rfl⟩
  | emit => exact absurd rfl hne
  | rd | wr | start | nopc => cases hi

theorem exec_emit_keeps_bytes {s t : State} (he : exec .emit s = .next t) {j : Nat} (hj : j < s.out.length) :
    t.out[j]? = s.out[j]? := by
  rcases exec_emit_cases he with rfl | ⟨_, _, _, rfl⟩
  · rfl
  · exact List.getElem?_append_left hj

/-- ACC is written by CLR and TST, the record of sample reads by TST only (R142, R143). -/
theorem exec_uop_keeps_acc {i : Instr} {s t : State} (hi : isUop i = true) (he : exec i s = .next t)
    (hne : ∀ b, i ≠ .tst b) : (i ≠ .clr → t.acc = s.acc) ∧ t.sampleReads = s.sampleReads := by
  cases i with
  | chk | pad b | fin =>
    cases he
    split_ifs <;> exact ⟨fun _ => rfl, rfl⟩
  | clr =>
    cases he
    split_ifs <;> exact ⟨fun h => absurd rfl h, rfl⟩
  | emit => rcases exec_emit_cases he with rfl | ⟨_, _, _, rfl⟩ <;> exact ⟨fun _ => rfl, rfl⟩
  | tst b => exact absurd rfl (hne b)
  | rd | wr | start | nopc => cases hi

/-- Settles O25. The frame of the inputs and of the host's side, and what each element is written by. -/
theorem uopFrame : Obligations.UopFrame := by
  intro s t i hi he
  obtain ⟨⟨hg, hw, hh, ht⟩, hp, hl⟩ := exec_uop_keeps hi he
  obtain ⟨hpar, hrd, hsc⟩ := exec_uop_frame hi he
  refine ⟨hpar, hw.symm, hh.symm, ht.symm, hrd, hsc, hp, hl, fun x y => by rw [hg], exec_uop_keeps_out hi he, ?_,
    fun hne => (exec_uop_keeps_acc hi he hne).1, fun hne => (exec_uop_keeps_acc hi he hne).2⟩
  rintro rfl j hj
  exact exec_emit_keeps_bytes he hj

end Sys2Proof.Machine
end

/-! ## The host operations: read-back, frame, the script of PACK -/

section
/-!
SUPPORT. The parameter registers one by one (R22 to R24, R43), what RD, WR and NOPC leave as it is, and the lines of PACK
(R110, R188).
-/
namespace Sys2Proof.Machine

/-- A word that fits THR_W comes back from the signed number it stands for (R93). -/
theorem thresholdToBits_ofBits {p : Params} {v : Nat} (hv : v < 2 ^ p.thrW) :
    thresholdToBits p (thresholdOfBits p v) = v := by
  rw [thresholdToBits, thresholdOfBits, BitVec.ofInt_toInt, BitVec.toNat_ofNat, Nat.mod_eq_of_lt hv]

section
variable {s : State}

theorem exec_wr_width (hb : s.opState ≠ .busy) {v : Nat} (hv : v < 2 ^ s.params.dimW) :
    exec (.wr .width v) s = .next (setWidth s v) := by
  rw [exec_wr_of_not_busy hb, writeReg, dataPhase_eq (r := .width) hv]

theorem exec_wr_height (hb : s.opState ≠ .busy) {v : Nat} (hv : v < 2 ^ s.params.dimW) :
    exec (.wr .height v) s = .next (setHeight s v) := by
  rw [exec_wr_of_not_busy hb, writeReg, dataPhase_eq (r := .height) hv]

theorem exec_wr_threshold (hb : s.opState ≠ .busy) (v : Nat) :
    exec (.wr .threshold v) s = .next (setThreshold s (thresholdOfBits s.params v)) := exec_wr_of_not_busy hb .threshold v

end

/-- Settles O29. A value of the register's width is stored whole, THRESHOLD as the number its bits stand for. -/
theorem parametersReadBack : Obligations.ParametersReadBack := by
  intro s r v hr hb hv
  have hfit : v < 2 ^ r.dataWidth s.params := of_decide_eq_true hv
  fin_cases hr
  · exact ⟨_, _, exec_wr_width hb hfit, exec_rd_of_readReg rfl, rfl⟩
  · exact ⟨_, _, exec_wr_height hb hfit, exec_rd_of_readReg rfl, rfl⟩
  · exact ⟨_, _, exec_wr_threshold hb v, exec_rd_of_readReg (thresholdToBits_ofBits hfit), rfl⟩

/-- RD, WR outside CTRL and NOPC write at most the record of reads and the one register the write names. -/
theorem exec_host_cases {i : Instr} {s t : State}
    (hi : (∃ r, i = .rd r) ∨ (∃ r v, i = .wr r v ∧ r ≠ .ctrl) ∨ (∃ rsv, i = .nopc rsv)) (he : exec i s = .next t) :
    ∃ w h thr rs, t = { s with width := w, height := h, threshold := thr, reads := rs } ∧
      ((∀ v, i ≠ .wr .width v) → w = s.width) ∧ ((∀ v, i ≠ .wr .height v) → h = s.height) ∧
      ((∀ v, i ≠ .wr .threshold v) → thr = s.threshold) ∧ ((∀ r, i ≠ .rd r) → rs = s.reads) := by
  rcases hi with ⟨r, rfl⟩ | ⟨r, v, rfl, hr⟩ | ⟨rsv, rfl⟩
  · cases he
    exact ⟨_, _, _, _, rfl, fun _ => rfl, fun _ => rfl, fun _ => rfl, fun hne => absurd rfl (hne r)⟩
  · by_cases hb : s.opState = .busy
    · cases (exec_wr_of_busy hb r v).symm.trans he
      exact ⟨_, _, _, _, rfl, fun _ => rfl, fun _ => rfl, fun _ => rfl, fun _ => rfl⟩
    · cases (exec_wr_of_not_busy hb r v).symm.trans he
      cases r with
      | ctrl => exact absurd rfl hr
      | width => exact ⟨_, _, _, _, rfl, fun hne => absurd rfl (hne v), fun _ => rfl, fun _ => rfl, fun _ => rfl⟩
      | height => exact ⟨_, _, _, _, rfl, fun _ => rfl, fun hne => absurd rfl (hne v), fun _ => rfl, fun _ => rfl⟩
      | threshold => exact ⟨_, _, _, _, rfl, fun _ => rfl, fun _ => rfl, fun hne => absurd rfl (hne v), fun _ => rfl⟩
      | status | bytecount | outcount | uop =>
        exact ⟨_, _, _, _, rfl, fun _ => rfl, fun _ => rfl, fun _ => rfl, fun _ => rfl⟩
  · cases he
    exact ⟨_, _, _, _, rfl, fun _ => rfl, fun _ => rfl, fun _ => rfl, fun _ => rfl⟩

/-- Settles O32. Every other field is untouched by the update. -/
theorem hostOperationFrame : Obligations.HostOperationFrame := by
  intro s t i hi he
  obtain ⟨w, h, thr, rs, rfl, hw, hh, ht, hr⟩ := exec_host_cases hi he
  exact ⟨rfl, rfl, rfl, rfl, rfl, rfl, rfl, rfl, rfl, rfl, rfl, rfl, rfl, rfl, rfl, fun _ _ => rfl, hw, hh, ht, hr⟩

/-- Settles O37. BYTECOUNT is computed from the registers; OUTCOUNT, STATUS and the artifact are not. -/
theorem byteCountFollowsRegisters : Obligations.ByteCountFollowsRegisters := by
  intro s v hd hv
  exact ⟨_, exec_wr_width (by rw [hd]; nofun) hv, rfl, rfl, rfl, rfl⟩

/-- Settles O35. Under R51 (c) ERR is NONE exactly outside ERROR, so its code goes with that of STATE. -/
theorem statusTakesFiveValues : Obligations.StatusTakesFiveValues := by
  intro s h
  have hnone : s.opState ≠ .error → s.err = .none := fun ho => by_contra fun he => ho (h.mp he)
  have hword : statusWord s = 0#4 ++ errCode s.err ++ opStateCode s.opState := rfl
  cases ho : s.opState with
  | idle =>
    rw [hnone (by rw [ho]; nofun), ho] at hword
    exact .inl ⟨hword, rfl⟩
  | busy =>
    rw [hnone (by rw [ho]; nofun), ho] at hword
    exact .inr (.inl ⟨hword, rfl⟩)
  | done =>
    rw [hnone (by rw [ho]; nofun), ho] at hword
    exact .inr (.inr (.inl ⟨hword, rfl⟩))
  | error =>
    cases he : s.err with
    | none => exact absurd he (h.mpr ho)
    | param =>
      rw [he, ho] at hword
      exact .inr (.inr (.inr (.inl ⟨hword, rfl, rfl⟩)))
    | grid =>
      rw [he, ho] at hword
      exact .inr (.inr (.inr (.inr ⟨hword, rfl, rfl⟩)))

section
variable {s : State} {rest : List HostItem}

/-- Outside BUSY, with no reset and levels that hold, a step is the host's next line. -/
theorem step_of_line (ha : EngineAlone s) (hb : s.opState ≠ .busy) {item : HostItem} {c : Code} {i : Instr} {u : State}
    (hs : s.script = item :: rest)
    (hc : (∃ addr data, item = .transfer addr data ∧ c = .h addr data) ∨ (∃ w, item = .command w ∧ c = .c w))
    (hd : decode c = .ok i) (he : exec i { s with script := rest } = .next u) (hl : u.pinsLater = s.pinsLater) :
    step s = .next u := by
  have hr : s.pins.reset = false := by rw [ha.1]; rfl
  have hm := (nextMove_of_hostTurn hr (hostTurn_of_not_busy hs hb)).trans (hostMove_line hs hc)
  rw [step_of_run hm hd he, tick_of_pinsLater_nil (hl.trans ha.2)]

/-- The line `WR WIDTH, w`. -/
theorem step_widthLine (ha : EngineAlone s) (hb : s.opState ≠ .busy) {w : Nat} (hw : w < 2 ^ s.params.dimW)
    (hs : s.script = .transfer 0b1010#4 w :: rest) : step s = .next (setWidth { s with script := rest } w) :=
  step_of_line ha hb hs (.inl ⟨_, _, rfl, rfl⟩) rfl (exec_wr_width (s := { s with script := rest }) hb hw) rfl

/-- The line `WR HEIGHT, h`. -/
theorem step_heightLine (ha : EngineAlone s) (hb : s.opState ≠ .busy) {h : Nat} (hh : h < 2 ^ s.params.dimW)
    (hs : s.script = .transfer 0b1011#4 h :: rest) : step s = .next (setHeight { s with script := rest } h) :=
  step_of_line ha hb hs (.inl ⟨_, _, rfl, rfl⟩) rfl (exec_wr_height (s := { s with script := rest }) hb hh) rfl

/-- The line `WR THRESHOLD, t`. -/
theorem step_thresholdLine (ha : EngineAlone s) (hb : s.opState ≠ .busy) (hp : s.params.legal = true) {t : Int}
    (ht : -(2 ^ (s.params.thrW - 1) : Int) ≤ t ∧ t < (2 ^ (s.params.thrW - 1) : Int))
    (hs : s.script = .transfer 0b1100#4 (thresholdToBits s.params t) :: rest) :
    step s = .next (setThreshold { s with script := rest } t) := by
  have he := exec_wr_threshold (s := { s with script := rest }) hb (thresholdToBits s.params t)
  rw [thresholdOfBits_toBits hp ht.1 ht.2] at he
  exact step_of_line ha hb hs (.inl ⟨_, _, rfl, rfl⟩) rfl he rfl

/-- The line START. -/
theorem step_startLine (ha : EngineAlone s) (hb : s.opState ≠ .busy) (hs : s.script = .command 0x01#8 :: rest) :
    step s = .next (acceptStart { s with script := rest }) :=
  step_of_line ha hb hs (.inr ⟨_, rfl, rfl⟩) (decode_command 0x01#8)
    (exec_start_of_not_busy (s := { s with script := rest }) hb _) rfl

end

/-- Settles O34. One step for each parameter line and one for START. -/
theorem packScriptStartsPack : Obligations.PackScriptStartsPack := by
  intro s w h t rest ha hb hp hw hh ht hs
  have hsteps : (if t = none then 3 else 4) = (if t = none then 2 else 3) + 1 := by split <;> rfl
  rw [hsteps, runFor_succ _ (step_widthLine ha hb hw hs)]
  cases t with
  | none =>
    exact (runFor_succ 1 (step_heightLine (s := setWidth { s with script := _ } w) ha hb hh rfl)).trans
      (runFor_succ 0 (step_startLine (s := setHeight (setWidth { s with script := _ } w) h) ha hb rfl))
  | some v =>
    refine (runFor_succ 2 (step_heightLine (s := setWidth { s with script := _ } w) ha hb hh rfl)).trans ?_
    refine (runFor_succ 1 (step_thresholdLine (s := setHeight (setWidth { s with script := _ } w) h) ha hb hp
      (ht v rfl) rfl)).trans ?_
    exact runFor_succ 0 (step_startLine (s := setThreshold (setHeight (setWidth { s with script := _ } w) h) v) ha hb rfl)

end Sys2Proof.Machine
end

/-! ## A pack in BUSY, whatever its timing (R120, R129, R168) -/

section
/-!
SUPPORT. The samples of a pack by the bit positions of its bytes: raster order (R68) and which of them the provider has
(R62, R84).
-/
namespace Sys2Proof.Machine

/-- The sample of bit position `p`, counted over the whole packed sequence; none at a padding position. -/
def sampleAt (w p : Nat) : Option (Nat × Nat) :=
  if p % (8 * gpr w) < w then some (p % (8 * gpr w), p / (8 * gpr w)) else none

/-- The samples of the first `n` bit positions, in order. -/
def samplesBefore (w n : Nat) : List (Nat × Nat) := (List.range n).filterMap (sampleAt w)

theorem column_lt_row {w g : Nat} (hg : g < gpr w) (b : Fin 8) : column g b < 8 * gpr w := by
  unfold column
  omega

theorem width_le_row (w : Nat) : w ≤ 8 * gpr w := by
  unfold gpr
  omega

theorem sampleAt_row (w y : Nat) {q : Nat} (hq : q < 8 * gpr w) :
    sampleAt w (8 * gpr w * y + q) = if q < w then some (q, y) else none := by
  have hdiv : (8 * gpr w * y + q) / (8 * gpr w) = y := by
    rw [Nat.mul_add_div (Nat.zero_lt_of_lt hq), Nat.div_eq_of_lt hq, Nat.add_zero]
  rw [sampleAt, Nat.mul_add_mod, Nat.mod_eq_of_lt hq, hdiv]

/-- Bit position `b` of row `y`, group `g` is that of one sample or a padding position (R103). -/
theorem sampleAt_bit {w y g : Nat} (hg : g < gpr w) (b : Fin 8) :
    sampleAt w (8 * (y * gpr w + g) + b) = if column g b < w then some (column g b, y) else none := by
  rw [← sampleAt_row w y (column_lt_row hg b)]
  congr 1
  unfold column
  ring

theorem samplesBefore_succ (w n : Nat) : samplesBefore w (n + 1) = samplesBefore w n ++ (sampleAt w n).toList := by
  rw [samplesBefore, List.range_succ, List.filterMap_append]
  cases h : sampleAt w n <;> simp [samplesBefore, h]

/-- The bit positions of one row give its samples from left to right. -/
theorem row_samples (w y : Nat) :
    (List.range (8 * gpr w)).filterMap (fun q => sampleAt w (8 * gpr w * y + q)) = (List.range w).map (fun x => (x, y)) := by
  obtain ⟨pad, hpad⟩ := Nat.exists_eq_add_of_le (width_le_row w)
  have hrow : ∀ q < w + pad, sampleAt w (8 * gpr w * y + q) = if q < w then some (q, y) else none :=
    fun q hq => sampleAt_row w y (hpad ▸ hq)
  have hin : (List.range w).filterMap (fun q => sampleAt w (8 * gpr w * y + q)) = (List.range w).map (fun x => (x, y)) := by
    rw [← List.filterMap_eq_map]
    refine List.filterMap_congr fun q hq => ?_
    have hlt : q < w := List.mem_range.mp hq
    rw [hrow q (by omega), if_pos hlt]
    rfl
  rw [hpad, List.range_add, List.filterMap_append, ← hpad, hin, List.filterMap_map]
  refine List.append_right_eq_self.mpr (List.filterMap_eq_nil_iff.mpr fun q hq => ?_)
  have hlt : q < pad := List.mem_range.mp hq
  rw [Function.comp_apply, hrow _ (by omega), if_neg (by omega)]

/-- All bit positions of a pack give every sample once, in raster order (R68). -/
theorem samplesBefore_all (w h : Nat) : samplesBefore w (8 * byteCount w h) = rasterOrder w h := by
  have hpos : ∀ n, 8 * byteCount w n = 8 * gpr w * n := fun n => by unfold byteCount; ring
  rw [hpos]
  induction h with
  | zero => rfl
  | succ h ih =>
    rw [samplesBefore, Nat.mul_succ, List.range_add, List.filterMap_append, List.filterMap_map]
    rw [samplesBefore] at ih
    rw [ih, rasterOrder, rasterOrder, List.range_succ, List.flatMap_append, List.flatMap_singleton]
    exact congrArg _ (row_samples w h)

/-- A provider that has every sample of the pack covers it (R62). -/
theorem gridCovers_of_reads {gr : Grid} {w h : Nat} (hr : ∀ p ∈ rasterOrder w h, gr.read p.1 p.2 ≠ none) :
    gridCovers gr w h = true := by
  rw [gridCovers, Bool.or_eq_true, Bool.or_eq_true, Bool.and_eq_true, decide_eq_true_iff, decide_eq_true_iff,
    decide_eq_true_iff, decide_eq_true_iff]
  by_contra hn
  have hmem : (w - 1, h - 1) ∈ rasterOrder w h := by
    simp only [rasterOrder, List.mem_flatMap, List.mem_map, List.mem_range]
    exact ⟨h - 1, by omega, w - 1, by omega, rfl⟩
  have hlast := mt (Grid.read_eq_none gr (w - 1) (h - 1)).mpr (hr _ hmem)
  omega

theorem not_gridCovers_of_fault {gr : Grid} {w h x y : Nat} (hx : x < w) (hy : y < h) (hr : gr.read x y = none) :
    ¬ gridCovers gr w h = true := by
  intro hc
  obtain ⟨v, hv⟩ := read_of_gridCovers hc hx hy
  cases hr.symm.trans hv

end Sys2Proof.Machine
end

section
/-!
SUPPORT. What a running pack keeps from START on, at any timing of the ports and the host, and how it ends.
-/
namespace Sys2Proof.Machine

/-- The bit slots done in the group at a slot; none outside the bit slots and EMIT. -/
def Slot.bitsRead (slot : Slot) : Nat := slot.bitsDone.getD 0

@[simp] theorem nextSlot_bitsRead (b : Fin 8) : (nextSlot b).bitsRead = b.val + 1 := by
  rw [Slot.bitsRead, nextSlot_bitsDone, Option.getD_some]

theorem firstSlot_bitsRead (w h : Nat) : (firstSlot w h).bitsRead = 0 := by
  unfold firstSlot
  split <;> rfl

/-- The samples read so far: those of the bit positions before the engine's, each of them answered (R68, R84). -/
structure ReadsSoFar (s₀ s : State) : Prop where
  inOrder : s.sampleReads = s₀.sampleReads ++ samplesBefore s.width (8 * s.k + s.slot.bitsRead)
  answered : ∀ p ∈ samplesBefore s.width (8 * s.k + s.slot.bitsRead), s.grid.read p.1 p.2 ≠ none

/-- `s` is a state in BUSY of the pack that START began in `s₀` (R184). -/
structure PackRun (s₀ s : State) : Prop where
  busy : s.opState = .busy
  inputs : SameInputs s₀ s
  noError : s.err = .none
  pc : PcAgrees s
  acc : AccHolds s
  out : OutPrefix s
  events : s.events = s₀.events ++ [.begin] ++ s.out.map .byte
  reads : ReadsSoFar s₀ s

theorem packRun_acceptStart (s : State) : PackRun s (acceptStart s) where
  busy := rfl
  inputs := ⟨rfl, rfl, rfl, rfl⟩
  noError := rfl
  pc := pcAgrees_acceptStart s
  acc := nofun
  out := rfl
  events := (List.append_nil _).symm
  reads := ⟨(List.append_nil _).symm, nofun⟩

/-- The three ends of the pack that START began in `s₀` (R135, R202, R134). -/
inductive PackOutcome (s₀ t : State) : Prop where
  | param (ht : ¬ thresholdLegal s₀.threshold = true) (ho : t.opState = .error) (he : t.err = .param) (hout : t.out = [])
  | grid (ht : thresholdLegal s₀.threshold = true) (hc : ¬ gridCovers s₀.grid s₀.width s₀.height = true)
      (ho : t.opState = .error) (he : t.err = .grid) (hout : t.out = [])
  | done (ht : thresholdLegal s₀.threshold = true) (hc : gridCovers s₀.grid s₀.width s₀.height = true)
      (ho : t.opState = .done) (he : t.err = .none)
      (hout : t.out = packedBytes s₀.grid s₀.width s₀.height s₀.threshold) (hk : t.k = byteCount s₀.width s₀.height)
      (ha : t.artifact = some ⟨s₀.width, s₀.height, t.k, t.out⟩)
      (hr : t.sampleReads = s₀.sampleReads ++ rasterOrder s₀.width s₀.height)
      (hev : t.events = s₀.events ++ [.begin] ++ t.out.map .byte ++ [.commit]) (hi : SameInputs s₀ t)

section
variable {s₀ s t u : State}

/-- A bit slot takes the samples read from one bit position to the next. -/
theorem ReadsSoFar.bit (h : ReadsSoFar s₀ s) (hpc : PcAgrees s) {b : Fin 8} (hs : s.slot = .bit b) {rs : List (Nat × Nat)}
    (hrs : rs = (if column s.g b < s.width then some (column s.g b, s.y) else none).toList)
    (hans : ∀ p ∈ rs, s.grid.read p.1 p.2 ≠ none) (hg : u.grid = s.grid) (hw : u.width = s.width) (hk : u.k = s.k)
    (hsl : u.slot = nextSlot b) (hu : u.sampleReads = s.sampleReads ++ rs) : ReadsSoFar s₀ u := by
  obtain ⟨-, hlt, hkk, -⟩ := hpc.inGroup (hs ▸ rfl)
  have hnext : samplesBefore s.width (8 * s.k + (b.val + 1)) = samplesBefore s.width (8 * s.k + s.slot.bitsRead) ++ rs := by
    rw [← Nat.add_assoc, samplesBefore_succ, hrs, ← sampleAt_bit hlt b, ← hkk, hs]
    rfl
  constructor
  · rw [hu, hw, hk, hsl, nextSlot_bitsRead, hnext, h.inOrder, List.append_assoc]
  · rw [hg, hw, hk, hsl, nextSlot_bitsRead, hnext]
    exact fun p hp => (List.mem_append.mp hp).elim (h.answered p) (hans p)

theorem ReadsSoFar.uop (h : ReadsSoFar s₀ s) (hpc : PcAgrees s) (hu : UopMove s u) (hub : u.opState = .busy) :
    ReadsSoFar s₀ u := by
  have hstay : 8 * u.k + u.slot.bitsRead = 8 * s.k + s.slot.bitsRead → u.grid = s.grid → u.width = s.width →
      u.sampleReads = s.sampleReads → ReadsSoFar s₀ u := by
    intro hpos hg hw hr
    constructor
    · rw [hr, hw, hpos, h.inOrder]
    · rw [hg, hw, hpos]
      exact h.answered
  cases hu with
  | wait => exact h
  | chkPass hs => exact hstay (by rw [setPc_slot, firstSlot_bitsRead, hs]; rfl) rfl rfl rfl
  | clr hs => exact hstay (by rw [hs]; rfl) rfl rfl rfl
  | tstOk hs hx hr =>
    refine h.bit hpc hs (rs := [_]) (by rw [if_pos hx]; rfl) (fun p hp => ?_) rfl rfl rfl rfl rfl
    rw [List.mem_singleton.mp hp, hr]
    nofun
  | pad hs hx =>
    exact h.bit hpc hs (rs := []) (by rw [if_neg hx]; rfl) nofun rfl rfl rfl rfl (List.append_nil _).symm
  | emitGroup hs | emitRow hs | emitLast hs => exact hstay (by rw [hs]; rfl) rfl rfl rfl
  | chkParam | tstFault | fin => cases hub

/-- At FIN every sample of the pack has been read and answered. -/
theorem ReadsSoFar.at_fin (h : ReadsSoFar s₀ s) (hpc : PcAgrees s) (hs : s.slot = .fin) :
    s.sampleReads = s₀.sampleReads ++ rasterOrder s.width s.height ∧ gridCovers s.grid s.width s.height = true := by
  obtain ⟨hk, -⟩ := hpc.atFin hs
  have hall : samplesBefore s.width (8 * s.k + s.slot.bitsRead) = rasterOrder s.width s.height := by
    rw [hk, hs, ← samplesBefore_all]
    rfl
  exact ⟨hall ▸ h.inOrder, gridCovers_of_reads (hall ▸ h.answered)⟩

/-- The signals of a micro-operation that stays in BUSY are the bytes it appends (R67, R79). -/
theorem UopMove.events_bytes (hu : UopMove s u) (hub : u.opState = .busy) :
    ∃ bs, u.out = s.out ++ bs ∧ u.events = s.events ++ bs.map .byte := by
  cases hu with
  | wait | chkPass | clr | tstOk | pad => exact ⟨[], (List.append_nil _).symm, (List.append_nil _).symm⟩
  | emitGroup | emitRow | emitLast => exact ⟨[s.acc], rfl, rfl⟩
  | chkParam | tstFault | fin => cases hub

/-- A running pack goes on while the engine stays in BUSY. -/
theorem PackRun.goes_on (h : PackRun s₀ s) (hu : UopMove s u) (hub : u.opState = .busy) : PackRun s₀ u := by
  obtain ⟨hg, hw, hh, ht⟩ := h.inputs
  obtain ⟨⟨hg', hw', hh', ht'⟩, -⟩ := hu.keepsInputs
  obtain ⟨bs, hout, hev⟩ := hu.events_bytes hub
  refine ⟨hub, ⟨hg.trans hg', hw.trans hw', hh.trans hh', ht.trans ht'⟩, ?_, h.pc.uop hu hub,
    h.acc.uop h.pc.legal hu, h.out.uop h.acc h.pc hu, ?_, h.reads.uop h.pc hu hub⟩
  · cases hu with
    | wait | chkPass | clr | tstOk | pad | emitGroup | emitRow | emitLast => exact h.noError
    | chkParam | tstFault | fin => cases hub
  · rw [hev, hout, h.events, List.map_append, List.append_assoc]

/-- A running pack leaves BUSY with the outcome of its inputs. -/
theorem PackRun.leaves (h : PackRun s₀ s) (hu : UopMove s u) (hub : u.opState ≠ .busy) : PackOutcome s₀ u := by
  obtain ⟨hg, hw, hh, ht⟩ := h.inputs
  cases hu with
  | wait | chkPass | clr | tstOk | pad | emitGroup | emitRow | emitLast => exact absurd h.busy hub
  | chkParam _ hill => exact .param (ht ▸ hill) rfl rfl rfl
  | tstFault hs hx hr =>
    obtain ⟨hy, -, -, hlegal⟩ := h.pc.inGroup (hs ▸ rfl)
    have hc : ¬ gridCovers s.grid s.width s.height = true := not_gridCovers_of_fault hx hy hr
    exact .grid (ht ▸ hlegal) (by rwa [hg, hw, hh]) rfl rfl rfl
  | fin hs =>
    obtain ⟨hk, hlegal⟩ := h.pc.atFin hs
    obtain ⟨hreads, hc⟩ := h.reads.at_fin h.pc hs
    have hout := h.out.at_fin h.pc hs
    exact .done (ht ▸ hlegal) (by rwa [hg, hw, hh]) rfl h.noError (by rw [hg, hw, hh, ht]; exact hout)
      (by rw [hw, hh]; exact hk) (by rw [hw, hh]; rfl) (by rw [hw, hh]; exact hreads)
      (congrArg (· ++ [OutEvent.commit]) h.events) h.inputs

theorem PackRun.sameEngine (hst : SameEngine s t) (h : PackRun s₀ s) : PackRun s₀ t := by
  obtain ⟨_, _, _, _, rfl⟩ := hst
  exact { h with pc := { h.pc with }, reads := { h.reads with } }

theorem PackOutcome.sameEngine (hst : SameEngine s t) (h : PackOutcome s₀ s) : PackOutcome s₀ t := by
  obtain ⟨_, _, _, _, rfl⟩ := hst
  cases h with
  | param ht ho he hout => exact .param ht ho he hout
  | grid ht hc ho he hout => exact .grid ht hc ho he hout
  | done ht hc ho he hout hk ha hr hev hi => exact .done ht hc ho he hout hk ha hr hev hi

theorem PackOutcome.not_busy (h : PackOutcome s₀ t) : t.opState ≠ .busy := by
  cases h with
  | param _ ho | grid _ _ ho | done _ _ ho => rw [ho]; nofun

/-- A step from a running pack: a reset, the pack goes on, or its end. -/
theorem PackRun.step (h : PackRun s₀ s) (hst : step s = .next t) :
    t.opState = .idle ∨ PackRun s₀ t ∨ PackOutcome s₀ t := by
  rcases step_of_busy h.busy hst with ⟨-, -, hi⟩ | hsame | ⟨u, hu, rfl⟩
  · exact .inl hi
  · exact .inr (.inl (h.sameEngine hsame))
  · by_cases hub : u.opState = .busy
    · exact .inr (.inl ((h.goes_on hu hub).sameEngine (sameEngine_tick u)))
    · exact .inr (.inr ((h.leaves hu hub).sameEngine (sameEngine_tick u)))

theorem PackEnds.tail {n : Nat} (h : PackEnds (n + 1) s t) (hs : step s = .next u) : PackEnds n u t := by
  obtain ⟨hrun, hbusy, hend⟩ := h
  refine ⟨(runFor_succ n hs).symm.trans hrun, fun m hm => ?_, hend⟩
  rw [← runFor_succ m hs]
  exact hbusy (m + 1) (by omega)

theorem PackEnds.zero (h : PackEnds 0 s t) : s = t := by injection h.1

/-- A pack that has steps to do is in BUSY. -/
theorem PackEnds.busy {n : Nat} (h : PackEnds (n + 1) s t) : s.opState = .busy := by
  obtain ⟨-, hbusy, -⟩ := h
  obtain ⟨u, hu, hb⟩ := hbusy 0 (by omega)
  obtain rfl : s = u := by injection hu
  exact hb

/-- A pack that has an end is in BUSY, or this is its end. -/
theorem PackEnds.busy_or_end {n : Nat} (h : PackEnds n s t) : s.opState = .busy ∨ s = t := by
  cases n with
  | zero => exact .inr h.zero
  | succ n => exact .inl h.busy

theorem PackEnds.end_not_idle {n : Nat} (h : PackEnds n s t) : t.opState ≠ .idle := by
  obtain ⟨-, -, hd | hd⟩ := h <;> rw [hd] <;> nofun

theorem PackEnds.end_not_busy {n : Nat} (h : PackEnds n s t) : t.opState ≠ .busy := by
  obtain ⟨-, -, hd | hd⟩ := h <;> rw [hd] <;> nofun

/-- However long the ports and the host make it take, a pack that ends has the outcome of its inputs (R129). -/
theorem PackRun.outcome {n : Nat} (h : PackRun s₀ s) (he : PackEnds n s t) : PackOutcome s₀ t := by
  induction n generalizing s with
  | zero =>
    obtain rfl := he.zero
    exact absurd h.busy he.end_not_busy
  | succ n ih =>
    obtain ⟨u, hstep⟩ := step_next s
    have htail := he.tail hstep
    rcases h.step hstep with hidle | hrun | hout
    · rcases htail.busy_or_end with hb | rfl
      · cases hidle.symm.trans hb
      · exact absurd hidle he.end_not_idle
    · exact ih hrun htail
    · rcases htail.busy_or_end with hb | rfl
      · exact absurd hb hout.not_busy
      · exact hout

/-- The bytes a result stands for. -/
def PackResult.bytes : PackResult → List Byte
  | .artifact a => a.bytes
  | .paramError => []
  | .gridError => []

/-- The outcome of a pack presents the result of PACK and its bytes (R120, R212). -/
theorem PackOutcome.presents (h : PackOutcome s₀ t) :
    observed t = some (pack s₀.grid s₀.width s₀.height s₀.threshold) ∧
      t.out = (pack s₀.grid s₀.width s₀.height s₀.threshold).bytes := by
  cases h with
  | param ht ho he hout =>
    rw [pack, if_neg ht, hout, observed, ho, he]
    exact ⟨rfl, rfl⟩
  | grid ht hc ho he hout =>
    rw [pack, if_pos ht, if_neg hc, hout, observed, ho, he]
    exact ⟨rfl, rfl⟩
  | done ht hc ho he hout hk ha =>
    rw [pack, if_pos ht, if_pos hc, observed, ho, ha, hk, hout]
    exact ⟨rfl, rfl⟩

end

end Sys2Proof.Machine
end

/-! ## A pack left alone (R134, R167, R168, R243) -/

section
/-!
SUPPORT. With the ports answering every pack ends in bound, and packs with the same inputs end after the same number of
steps.
-/
namespace Sys2Proof.Machine

/-- The steps a pack in BUSY has done (R245). -/
def stepsSoFar (s : State) : Nat := 10 * s.k + s.slot.stepsDone

section
variable {s₀ s t u : State}

/-- A pack in BUSY has not done all its steps. -/
theorem PcAgrees.stepsSoFar_lt (h : PcAgrees s) : stepsSoFar s < packSteps s.width s.height := by
  have hgroup : s.slot.inGroup = true → s.k + 1 ≤ byteCount s.width s.height := by
    intro hs
    obtain ⟨hy, hg, hk, -⟩ := h.inGroup hs
    exact hk ▸ group_succ_le_byteCount hy hg
  unfold stepsSoFar packSteps
  cases hs : s.slot with
  | chk =>
    obtain ⟨-, -, hk⟩ := h.atChk hs
    rw [Slot.stepsDone]
    omega
  | fin =>
    obtain ⟨hk, -⟩ := h.atFin hs
    rw [Slot.stepsDone]
    omega
  | clr | bit b | emit =>
    have hk := hgroup (hs ▸ rfl)
    rw [Slot.stepsDone]
    omega

theorem firstSlot_stepsDone (w h : Nat) : (firstSlot w h).stepsDone = 1 := by
  unfold firstSlot
  split <;> rfl

/-- With both ports answering a micro-operation that stays in BUSY is one step of the pack. -/
theorem UopMove.advances (hu : UopMove s u) (hub : u.opState = .busy) (hsample : s.pins.sampleReady = true)
    (hbyte : s.pins.byteReady = true) : stepsSoFar u = stepsSoFar s + 1 := by
  unfold stepsSoFar
  cases hu with
  | wait hs =>
    rcases hs with ⟨-, hp⟩ | ⟨_, -, -, hp⟩
    · cases hbyte.symm.trans hp
    · cases hsample.symm.trans hp
  | chkPass hs => rw [setPc_slot, firstSlot_stepsDone, hs]; rfl
  | clr hs => rw [hs]; rfl
  | tstOk hs | pad hs => rw [setPc_slot, nextSlot_stepsDone, hs]; rfl
  | emitGroup hs | emitRow hs | emitLast hs =>
    rw [hs]
    simp only [setPc_k, setPc_slot, countByte_k, sendByte_k, Slot.stepsDone]
    omega
  | chkParam | tstFault | fin => cases hub

theorem uopMove_of_alone (ha : EngineAlone s) (hb : s.opState = .busy) (h : step s = .next u) :
    UopMove s u ∧ EngineAlone u := by
  have he := (step_of_alone ha hb).symm.trans h
  obtain ⟨-, hp, hl⟩ := exec_uop_keeps (isUop_slotUop _ _ _) he
  exact ⟨uopMove_of_exec hb he, hp.trans ha.1, hl.trans ha.2⟩

/-- A pack left alone ends when its steps are done, or earlier in ERROR (R168). -/
theorem PackRun.ends (h : PackRun s₀ s) (ha : EngineAlone s) :
    ∃ n t, n + stepsSoFar s ≤ packSteps s₀.width s₀.height ∧ PackEnds n s t := by
  obtain ⟨-, hw, hh, -⟩ := h.inputs
  have hlt := h.pc.stepsSoFar_lt
  rw [← hw, ← hh] at hlt
  induction hm : packSteps s₀.width s₀.height - stepsSoFar s using Nat.strong_induction_on generalizing s with
  | _ m ih =>
    obtain ⟨u, hstep⟩ := step_next s
    obtain ⟨hu, hau⟩ := uopMove_of_alone ha h.busy hstep
    by_cases hub : u.opState = .busy
    · have hadv := hu.advances hub (by rw [ha.1]; rfl) (by rw [ha.1]; rfl)
      have hrun := h.goes_on hu hub
      obtain ⟨-, hwu, hhu, -⟩ := hrun.inputs
      have hltu := hrun.pc.stepsSoFar_lt
      rw [← hwu, ← hhu] at hltu
      obtain ⟨n, t, hn, hend⟩ := ih _ (by omega) hrun hau hwu hhu hltu rfl
      exact ⟨n + 1, t, by omega, hend.succ h.busy hstep⟩
    · have hend : PackEnds 0 u u := by
        refine ⟨rfl, nofun, ?_⟩
        cases h.leaves hu hub with
        | param _ ho | grid _ _ ho => exact .inr ho
        | done _ _ ho => exact .inl ho
      exact ⟨1, u, by omega, hend.succ h.busy hstep⟩

end

/-- Settles O48. A pack left alone ends in bound, and every end presents the result of PACK. -/
theorem sequencerComputesPack : Obligations.SequencerComputesPack := by
  intro s ha _
  have hrun := packRun_acceptStart s
  obtain ⟨n, t, hn, hend⟩ := hrun.ends (engineAlone_acceptStart ha)
  obtain ⟨hpresents, -⟩ := (hrun.outcome hend).presents
  obtain ⟨hsteps, -, hstopped⟩ := hend
  exact ⟨n, t, by omega, hsteps, hstopped, hpresents⟩

/-- `t` stands where `s` stands, with the same inputs and input levels: what the next micro-operation is and where it leads
depends on nothing else. -/
def SameControl (s t : State) : Prop :=
  ∃ par e a k out art ev sr rd sc, t = { s with
    params := par, err := e, acc := a, k := k, out := out, artifact := art, events := ev, sampleReads := sr, reads := rd
    script := sc }

/-- `UopMove` says exactly what a micro-operation does, so it can be run forwards. -/
theorem exec_of_uopMove {s u : State} (hb : s.opState = .busy) (h : UopMove s u) :
    exec (slotUop s.width s.g s.slot) s = .next u := by
  have hemit : s.slot = .emit → s.pins.byteReady = true → ∀ {v}, nextGroup (countByte (sendByte s s.acc)) = v →
      exec (slotUop s.width s.g s.slot) s = .next v := by
    rintro hs hp v rfl
    rw [hs]
    exact exec_emit_of_ready hb hp
  cases h with
  | wait hs =>
    rcases hs with ⟨hs, hp⟩ | ⟨b, hs, hx, hp⟩
    · rw [hs]
      exact exec_emit_of_silent hb hp
    · rw [hs, slotUop, if_pos hx]
      exact exec_tst_of_waiting hb (samplePort_of_silent hp)
  | chkPass hs ht => rw [hs, slotUop, exec_chk, if_pos hb, if_pos ht]
  | chkParam hs ht => rw [hs, slotUop, exec_chk, if_pos hb, if_neg ht]
  | clr hs => rw [hs, slotUop, exec_clr, if_pos hb]
  | tstFault hs hx hr hp =>
    rw [hs, slotUop, if_pos hx]
    exact exec_tst_of_fault hb (samplePort_of_none hp hr)
  | tstOk hs hx hr hp =>
    rw [hs, slotUop, if_pos hx]
    exact exec_tst_of_ok hb (samplePort_of_some hp hr)
  | pad hs hx => rw [hs, slotUop, if_neg hx, exec_pad, if_pos hb]
  | emitGroup hs hg hp => exact hemit hs hp (if_pos hg)
  | emitRow hs hg hy hp => exact hemit hs hp ((if_neg (not_lt_of_ge hg)).trans (if_pos hy))
  | emitLast hs hg hy hp => exact hemit hs hp ((if_neg (not_lt_of_ge hg)).trans (if_neg (not_lt_of_ge hy)))
  | fin hs => rw [congrArg (slotUop s.width s.g) hs, slotUop, exec_fin, if_pos hb]

/-- Two engines at the same place with the same inputs go to the same place. -/
theorem UopMove.sameControl {s s' u : State} (hss : SameControl s s') (hu : UopMove s u) :
    ∃ u', UopMove s' u' ∧ SameControl u u' := by
  obtain ⟨_, _, _, _, _, _, _, _, _, _, rfl⟩ := hss
  cases hu with
  | wait hs => exact ⟨_, .wait hs, _, _, _, _, _, _, _, _, _, _, rfl⟩
  | chkPass hs ht => exact ⟨_, .chkPass hs ht, _, _, _, _, _, _, _, _, _, _, rfl⟩
  | chkParam hs ht => exact ⟨_, .chkParam hs ht, _, _, _, _, _, _, _, _, _, _, rfl⟩
  | clr hs => exact ⟨_, .clr hs, _, _, _, _, _, _, _, _, _, _, rfl⟩
  | tstFault hs hx hr hp => exact ⟨_, .tstFault hs hx hr hp, _, _, _, _, _, _, _, _, _, _, rfl⟩
  | tstOk hs hx hr hp => exact ⟨_, .tstOk hs hx hr hp, _, _, _, _, _, _, _, _, _, _, rfl⟩
  | pad hs hx => exact ⟨_, .pad hs hx, _, _, _, _, _, _, _, _, _, _, rfl⟩
  | emitGroup hs hg hp => exact ⟨_, .emitGroup hs hg hp, _, _, _, _, _, _, _, _, _, _, rfl⟩
  | emitRow hs hg hy hp => exact ⟨_, .emitRow hs hg hy hp, _, _, _, _, _, _, _, _, _, _, rfl⟩
  | emitLast hs hg hy hp => exact ⟨_, .emitLast hs hg hy hp, _, _, _, _, _, _, _, _, _, _, rfl⟩
  | fin hs => exact ⟨_, .fin hs, _, _, _, _, _, _, _, _, _, _, rfl⟩

theorem SameControl.opState {s t : State} (h : SameControl s t) : t.opState = s.opState := by
  obtain ⟨_, _, _, _, _, _, _, _, _, _, rfl⟩ := h
  rfl

theorem SameControl.alone {s t : State} (h : SameControl s t) (ha : EngineAlone s) : EngineAlone t := by
  obtain ⟨_, _, _, _, _, _, _, _, _, _, rfl⟩ := h
  exact ha

/-- Two engines left alone at the same place with the same inputs end after the same number of steps. -/
theorem PackEnds.sameControl {n : Nat} {s s' t : State} (h : PackEnds n s t) (ha : EngineAlone s) (hss : SameControl s s') :
    ∃ t', PackEnds n s' t' := by
  induction n generalizing s s' with
  | zero =>
    obtain rfl := h.zero
    obtain ⟨-, -, hend⟩ := h
    exact ⟨s', rfl, nofun, hss.opState ▸ hend⟩
  | succ n ih =>
    have hb := h.busy
    have hb' : s'.opState = .busy := hss.opState.trans hb
    obtain ⟨u, hstep⟩ := step_next s
    obtain ⟨hu, hau⟩ := uopMove_of_alone ha hb hstep
    obtain ⟨u', hu', huu⟩ := hu.sameControl hss
    have hstep' : step s' = .next u' := (step_of_alone (hss.alone ha) hb').trans (exec_of_uopMove hb' hu')
    obtain ⟨t', hend⟩ := ih (h.tail hstep) hau huu
    exact ⟨t', hend.succ hb' hstep'⟩

/-- START brings two engines with the same inputs to the same place. -/
theorem sameControl_acceptStart {s s' : State} (ha : EngineAlone s) (ha' : EngineAlone s') (h : SameInputs s s') :
    SameControl (acceptStart s) (acceptStart s') := by
  obtain ⟨hg, hw, hh, ht⟩ := h
  refine ⟨s'.params, .none, s'.acc, 0, [], none, s'.events ++ [.begin], s'.sampleReads, s'.reads, s'.script, ?_⟩
  obtain ⟨hp, hl⟩ := ha
  obtain ⟨hp', hl'⟩ := ha'
  simp only [acceptStart, setPc, sendBegin, hg, hw, hh, ht, hp, hl, hp', hl']

/-- Settles O54. Every end is the outcome of the inputs, whatever the timing; left alone, two packs of the same inputs keep
in step. -/
theorem packDependsOnInputsOnly : Obligations.PackDependsOnInputsOnly := by
  refine ⟨fun s s' t t' n n' _ _ hss h h' => ?_, fun s s' ha ha' _ _ hss => ?_⟩
  · obtain ⟨hobs, hout⟩ := ((packRun_acceptStart s).outcome h).presents
    obtain ⟨hobs', hout'⟩ := ((packRun_acceptStart s').outcome h').presents
    obtain ⟨hg, hw, hh, ht⟩ := hss
    rw [← hg, ← hw, ← hh, ← ht] at hobs' hout'
    exact ⟨hobs, hobs'.trans hobs.symm, hout'.trans hout.symm⟩
  · obtain ⟨n, t, -, hend⟩ := (packRun_acceptStart s).ends (engineAlone_acceptStart ha)
    obtain ⟨t', hend'⟩ := hend.sameControl (engineAlone_acceptStart ha) (sameControl_acceptStart ha ha' hss)
    exact ⟨n, t, t', hend, hend'⟩

/-- A successful pack left alone, with all it presents at its end (R134). -/
theorem successful_pack_outcome {s : State} (ha : EngineAlone s) (hlegal : thresholdLegal s.threshold = true)
    (hc : gridCovers s.grid s.width s.height = true) :
    ∃ t, runFor (packSteps s.width s.height) (acceptStart s) = .next t ∧ t.opState = .done ∧ PackOutcome s t := by
  obtain ⟨t, hend, hdone, -⟩ := (packing_acceptStart ha hlegal).ends hc
  have hout := (packRun_acceptStart s).outcome hend
  obtain ⟨hrun, -⟩ := hend
  exact ⟨t, hrun, hdone, hout⟩

/-- Settles O51. The samples of all bit positions are the raster order, and every byte was sent as it was appended. -/
theorem packReadsInRasterOrder : Obligations.PackReadsInRasterOrder := by
  intro s ha _ hg h0 h255
  obtain ⟨t, hrun, hdone, hout⟩ :=
    successful_pack_outcome ha ((thresholdLegal_iff _).mpr ⟨h0, h255⟩) (gridCovers_of_consistent hg)
  cases hout with
  | param _ ho | grid _ _ ho => cases hdone.symm.trans ho
  | done _ _ _ _ hbytes _ _ hr hev => exact ⟨t, hrun, hr, hbytes ▸ hev⟩

theorem byteCount_eq_zero {w h : Nat} (hz : w = 0 ∨ h = 0) : byteCount w h = 0 :=
  Nat.mul_eq_zero.mpr (hz.symm.imp id (gpr_eq_zero w).mpr)

theorem gridCovers_of_zero (g : Grid) {w h : Nat} (hz : w = 0 ∨ h = 0) : gridCovers g w h = true := by
  rcases hz with rfl | rfl <;> simp [gridCovers]

theorem rasterOrder_of_zero {w h : Nat} (hz : w = 0 ∨ h = 0) : rasterOrder w h = [] := by
  rcases hz with rfl | rfl <;> simp [rasterOrder]

/-- Settles O53. A grid with a zero side has no byte and no sample, so CHK and FIN are the whole pack. -/
theorem degenerateGridPacksToNothing : Obligations.DegenerateGridPacksToNothing := by
  intro s ha _ hz h0 h255
  have hcount := byteCount_eq_zero hz
  obtain ⟨t, hrun, hdone, hout⟩ :=
    successful_pack_outcome ha ((thresholdLegal_iff _).mpr ⟨h0, h255⟩) (gridCovers_of_zero s.grid hz)
  rw [packSteps, hcount] at hrun
  cases hout with
  | param _ ho | grid _ _ ho => cases hdone.symm.trans ho
  | done _ _ _ he hbytes hk hart hr _ hi =>
    obtain ⟨-, hw, hh, -⟩ := hi
    have hk0 : t.k = 0 := hk.trans hcount
    have hnil : t.out = [] := by
      rw [hbytes, ← List.length_eq_zero_iff, packedBytes_length, hcount]
    refine ⟨t, hrun, ?_, hk0, ?_, ?_, ?_⟩
    · rw [readReg, statusWord, he, hdone]
      rfl
    · rw [readReg, ← hw, ← hh, hcount]
    · rw [hr, rasterOrder_of_zero hz, List.append_nil]
    · rw [hart, hk0, hnil]

end Sys2Proof.Machine
end

section
/-!
SUPPORT. The words of a successful pack are its program (R167): each step decodes the word at its own index.
-/
namespace Sys2Proof.Machine

/-- Lists of one length put end to end, element by element. -/
theorem getElem?_flatMap_range {α : Type} {f : Nat → List α} {len : Nat} (hf : ∀ k, (f k).length = len) {n k j : Nat}
    (hk : k < n) (hj : j < len) : ((List.range n).flatMap f)[len * k + j]? = (f k)[j]? := by
  have hlen : ∀ m, ((List.range m).flatMap f).length = len * m := by
    intro m
    simp [List.length_flatMap, hf, Nat.mul_comm]
  induction n with
  | zero => omega
  | succ n ih =>
    rw [List.range_succ, List.flatMap_append, List.flatMap_singleton]
    by_cases hlast : k = n
    · subst hlast
      rw [List.getElem?_append_right (by rw [hlen]; omega), hlen, Nat.add_sub_cancel_left]
    · have hlt : len * k + j < len * n :=
        calc len * k + j < len * (k + 1) := by rw [Nat.mul_succ]; omega
          _ ≤ len * n := Nat.mul_le_mul_left _ (by omega)
      rw [List.getElem?_append_left (by rw [hlen]; exact hlt), ih (by omega)]

theorem groupProgram_length (w grp : Nat) : (groupProgram w grp).length = 10 := by simp [groupProgram]

theorem packProgram_length (w h : Nat) : (packProgram w h).length = packSteps w h := by
  simp only [packProgram, packSteps, List.length_cons, List.length_append, List.length_flatMap, groupProgram_length,
    List.map_const', List.length_range, List.sum_replicate, List.length_nil, smul_eq_mul]
  omega

/-- The words of a group are those the sequencer fetches at the slots of the group (R160, R167). -/
theorem groupProgram_slot (w grp : Nat) {slot : Slot} (hs : slot.inGroup = true) :
    (groupProgram w grp)[slot.stepsDone - 1]? = some (fetch w grp slot) := by
  cases slot with
  | chk | fin => cases hs
  | clr | emit => simp [groupProgram, Slot.stepsDone, fetch]
  | bit b =>
    have hfetch : fetch w grp (.bit b) =
        if 8 * grp + b.val < w then 0x30#8 + BitVec.ofNat 8 b.val else 0x40#8 + BitVec.ofNat 8 b.val := rfl
    simp [groupProgram, Slot.stepsDone, hfetch, BitVec.ofNat_add, List.getElem?_append]

/-- Word `10 * k + j` after CHK is word `j` of the group of byte `k` (R167). -/
theorem packProgram_group {w h y g : Nat} (hy : y < h) (hg : g < gpr w) {slot : Slot} (hs : slot.inGroup = true) :
    (packProgram w h)[10 * (y * gpr w + g) + slot.stepsDone]? = some (fetch w g slot) := by
  obtain ⟨j, hj, hlt⟩ : ∃ j, slot.stepsDone = j + 1 ∧ j < 10 := by
    cases slot with
    | chk | fin => cases hs
    | clr => exact ⟨0, rfl, by omega⟩
    | bit b => exact ⟨b.val + 1, rfl, by omega⟩
    | emit => exact ⟨9, rfl, by omega⟩
  have hk : y * gpr w + g < byteCount w h := group_succ_le_byteCount hy hg
  have hmod : (y * gpr w + g) % gpr w = g := by rw [Nat.mul_add_mod', Nat.mod_eq_of_lt hg]
  have hword := groupProgram_slot w g hs
  have hflat := getElem?_flatMap_range (f := fun k => groupProgram w (k % gpr w)) (fun _ => groupProgram_length _ _) hk hlt
  rw [hj, Nat.add_sub_cancel] at hword
  rw [hmod, hword] at hflat
  rw [hj, ← Nat.add_assoc, packProgram, List.getElem?_cons_succ, List.getElem?_append_left, hflat]
  exact (List.getElem?_eq_some_iff.mp hflat).1

theorem packProgram_fin (w h : Nat) : (packProgram w h)[10 * byteCount w h + 1]? = some 0x60#8 := by
  have hlen : ((List.range (byteCount w h)).flatMap fun k => groupProgram w (k % gpr w)).length = 10 * byteCount w h := by
    have hall := packProgram_length w h
    simp only [packProgram, packSteps, List.length_cons, List.length_append, List.length_nil] at hall
    omega
  rw [packProgram, List.getElem?_cons_succ, List.getElem?_append_right hlen.le, hlen, Nat.sub_self, List.getElem?_cons_zero]

section
variable {n : Nat} {s t : State}

/-- The word a running pack fetches is that of its program at the number of steps done. -/
theorem Packing.fetches (h : Packing n s) : (packProgram s.width s.height)[stepsSoFar s]? = some (fetchWord s) := by
  have hgroup : s.slot.inGroup = true → (packProgram s.width s.height)[stepsSoFar s]? = some (fetchWord s) := by
    intro hs
    obtain ⟨hy, hg, hk⟩ := h.inGroup hs
    rw [stepsSoFar, hk]
    exact packProgram_group hy hg hs
  cases hs : s.slot with
  | chk =>
    rw [stepsSoFar, fetchWord, hs, h.atChk hs]
    rfl
  | clr | bit b | emit => exact hgroup (hs ▸ rfl)
  | fin =>
    rw [stepsSoFar, fetchWord, hs, h.atFin hs]
    exact packProgram_fin _ _

theorem uopTrace_succ_of_alone (ha : EngineAlone s) (hb : s.opState = .busy) (h : step s = .next t) :
    uopTrace (n + 1) s = fetchWord s :: uopTrace n t := by
  rw [uopTrace, nextMove_of_alone ha hb, h]
  rfl

/-- The words a running pack has still to decode are the rest of its program (R167). -/
theorem Packing.uopTrace_eq (h : Packing n s) (hc : gridCovers s.grid s.width s.height = true) :
    uopTrace n s = (packProgram s.width s.height).drop (stepsSoFar s) := by
  induction n generalizing s with
  | zero => exact absurd h.pos (lt_irrefl 0)
  | succ n ih =>
    obtain ⟨hlt, hword⟩ := List.getElem?_eq_some_iff.mp h.fetches
    have hleft := h.stepsLeft
    rw [List.drop_eq_getElem_cons hlt, hword]
    by_cases hs : s.slot = .fin
    · obtain ⟨rfl, hstep, -⟩ := h.fin hs
      rw [uopTrace_succ_of_alone h.alone h.busy hstep, List.drop_eq_nil_of_le]
      · rfl
      · rw [packProgram_length, packSteps, stepsSoFar]
        omega
    · obtain ⟨t, hstep, ht⟩ := h.next hc hs
      obtain ⟨hg, hw, hh, -⟩ := sameInputs_of_alone h.alone h.busy hstep
      have hleft' := ht.stepsLeft
      rw [← hw, ← hh] at hleft'
      have hnext : stepsSoFar t = stepsSoFar s + 1 := by
        unfold stepsSoFar
        omega
      rw [uopTrace_succ_of_alone h.alone h.busy hstep, ih ht (by rwa [← hg, ← hw, ← hh]), hnext, hw, hh]

end

/-- Settles O50. From the accepted START on the rest of the program is all of it. -/
theorem packRunsItsProgram : Obligations.PackRunsItsProgram := by
  intro s ha _ hg h0 h255
  exact (packing_acceptStart ha ((thresholdLegal_iff _).mpr ⟨h0, h255⟩)).uopTrace_eq (gridCovers_of_consistent hg)

end Sys2Proof.Machine
end

section
/-!
SUPPORT. One group from CLR to EMIT (R133): ten steps that append PACK8's byte.
-/
namespace Sys2Proof.Machine

/-- `s` is `n` bit slots into the group at whose CLR the engine stood in `s₀`. -/
structure GroupRun (s₀ s : State) (n : Nat) : Prop where
  alone : EngineAlone s
  busy : s.opState = .busy
  bits : s.slot.bitsDone = some n
  acc : AccHolds s
  inputs : SameInputs s₀ s
  row : s.y = s₀.y
  group : s.g = s₀.g
  out : s.out = s₀.out
  count : s.k = s₀.k

theorem Slot.eq_bit_of_bitsDone {slot : Slot} {n : Nat} (h : slot.bitsDone = some n) (hn : n < 8) :
    slot = .bit ⟨n, hn⟩ := by
  cases slot with
  | chk | clr | fin => cases h
  | bit b => exact congrArg Slot.bit (Fin.ext (Option.some.inj h))
  | emit => exact absurd (Option.some.inj h) (by omega)

theorem Slot.eq_emit_of_bitsDone {slot : Slot} (h : slot.bitsDone = some 8) : slot = .emit := by
  cases slot with
  | chk | clr | fin => cases h
  | bit b => exact absurd (Option.some.inj h) (by omega)
  | emit => rfl

section
variable {s₀ s : State}

/-- CLR begins the group. -/
theorem groupRun_clr (ha : EngineAlone s₀) (hb : s₀.opState = .busy) (hs : s₀.slot = .clr) :
    ∃ t, step s₀ = .next t ∧ GroupRun s₀ t 0 := by
  refine ⟨_, (step_of_alone ha hb).trans (exec_of_uopMove hb (.clr hs)), ha, hb, rfl, ?_, ⟨rfl, rfl, rfl, rfl⟩, rfl, rfl,
    rfl, rfl⟩
  rintro n ⟨⟩
  rfl

/-- One bit slot of a group whose row the provider has. -/
theorem GroupRun.bit {n : Nat} (h : GroupRun s₀ s n) (hn : n < 8) (ht : thresholdLegal s₀.threshold = true)
    (hw : s₀.width ≤ s₀.grid.w) (hy : s₀.y < s₀.grid.h) : ∃ t, step s = .next t ∧ GroupRun s₀ t (n + 1) := by
  have hs := Slot.eq_bit_of_bitsDone h.bits hn
  obtain ⟨ig, iw, ih, it⟩ := h.inputs
  obtain ⟨t, hstep⟩ := step_next s
  obtain ⟨hu, hat⟩ := uopMove_of_alone h.alone h.busy hstep
  have hacc := h.acc.uop (fun _ => it ▸ ht) hu
  refine ⟨t, hstep, ?_⟩
  cases hu with
  | wait hp =>
    rw [h.alone.1] at hp
    rcases hp with ⟨-, hp⟩ | ⟨_, -, -, hp⟩ <;> cases hp
  | tstFault _ hx hr =>
    rw [Grid.read_eq_none, ← ig, h.row] at hr
    rw [← iw] at hx
    exact absurd ⟨hx.trans_le hw, hy⟩ hr
  | tstOk hb | pad hb =>
    obtain rfl := Slot.bit.inj (hs.symm.trans hb)
    exact ⟨hat, h.busy, nextSlot_bitsDone _, hacc, ⟨ig, iw, ih, it⟩, h.row, h.group, h.out, h.count⟩
  | chkPass hc | chkParam hc | clr hc | emitGroup hc | emitRow hc | emitLast hc | fin hc => cases hs.symm.trans hc

/-- The remaining bit slots of the group. -/
theorem GroupRun.bits_done {m n : Nat} (h : GroupRun s₀ s n) (hm : n + m = 8) (ht : thresholdLegal s₀.threshold = true)
    (hw : s₀.width ≤ s₀.grid.w) (hy : s₀.y < s₀.grid.h) : ∃ t, runFor m s = .next t ∧ GroupRun s₀ t 8 := by
  induction m generalizing s n with
  | zero => exact ⟨s, rfl, (show n = 8 from hm) ▸ h⟩
  | succ m ih =>
    obtain ⟨u, hstep, hu⟩ := h.bit (by omega) ht hw hy
    obtain ⟨t, hrun, ht8⟩ := ih hu (by omega)
    exact ⟨t, (runFor_succ m hstep).trans hrun, ht8⟩

/-- EMIT appends the byte of the group. -/
theorem GroupRun.emit (h : GroupRun s₀ s 8) (hg : s₀.g < gpr s₀.width) :
    ∃ t, step s = .next t ∧ t.opState = .busy ∧ t.out = s₀.out ++ [pack8 s₀.grid s₀.width s₀.threshold s₀.y s₀.g] ∧
      t.k = s₀.k + 1 := by
  have hs := Slot.eq_emit_of_bitsDone h.bits
  obtain ⟨ig, iw, -, it⟩ := h.inputs
  have hbyte : s.acc = pack8 s₀.grid s₀.width s₀.threshold s₀.y s₀.g := by
    rw [h.acc.at_emit hs, packEightIsPackedByte _ _ _ _ _ hg, ig, iw, it, h.row, h.group]
  refine ⟨nextGroup (countByte (sendByte s s.acc)), ?_, ?_, ?_, ?_⟩
  · rw [step_of_alone h.alone h.busy, hs]
    exact exec_emit_of_ready h.busy (by rw [h.alone.1]; rfl)
  · rw [nextGroup_eq]
    exact h.busy
  · rw [nextGroup_eq, ← hbyte, ← h.out]
    rfl
  · rw [nextGroup_eq, ← h.count]
    rfl

end

/-- Settles O58. CLR, eight bit slots, EMIT. -/
theorem tenStepsArePackEight : Obligations.TenStepsArePackEight := by
  intro s ha hb hs hg h0 h255 hw hy
  obtain ⟨u, hclr, hu⟩ := groupRun_clr ha hb hs
  obtain ⟨v, hbits, hv⟩ := hu.bits_done (m := 8) rfl ((thresholdLegal_iff _).mpr ⟨h0, h255⟩) hw hy
  obtain ⟨t, hemit, hbusy, hout, hk⟩ := hv.emit hg
  exact ⟨t, ((runFor_succ 9 hclr).trans (runFor_add 8 1 hbits)).trans (runFor_succ 0 hemit), hbusy, hout, hk⟩

end Sys2Proof.Machine
end
